-- ==== Sys2Proof/Word.lean ====
section
/-! DEFINITION. The word types of the block: widths only (00_scope.md R8, R9, R10). -/

namespace Sys2Proof

/-- A delivered word, the accumulator and a register access: `WORD_W` = `REG_W` = 32 bits (R8, R9). -/
abbrev Word := BitVec 32

/-- One hardware sample: `BYTE_W` = 8 bits (R8). -/
abbrev Byte := BitVec 8

/-- One event word: 16 bits (30_encoding.md R60). -/
abbrev EventWord := BitVec 16

/-- A client identifier: `CLIENT_W` = 8 bits, an opaque name on which nothing computes (R9, R67). -/
abbrev ClientId := BitVec 8

/-- The byte-index counter: `IDX_W` = 3 bits, values 0 to 7 (10_state.md R20). -/
abbrev Index := BitVec 3

end Sys2Proof
end

