-- ==== Sys2Proof/Config.lean ====
section
/-! DEFINITION. What the environment fixes and the block only names: the peripheral registers, the
controller primitives, the open parameters of 00_scope.md R9, and the free values. An opaque constant
has no body: no proof can use a value of it, so every claim holds for every value. -/

namespace Sys2Proof

/-- The six peripheral registers, by name (20_memory.md R40). INTEN is named and never accessed (R43). -/
inductive PeriphReg where
  | taskStart
  | eventValrdy
  | inten
  | intenset
  | intenclr
  | value
  deriving DecidableEq, Repr

/-- The three primitives of the interrupt controller (20_memory.md R48). -/
inductive CtlOp where
  | enable
  | disable
  | clearPend
  deriving DecidableEq, Repr

namespace Config

/-- One bit position that is set in `VALRDY_MASK`; it makes the mask non-zero (R9). -/
opaque valrdyBit : Fin 32

/-- The further bits of `VALRDY_MASK`: any pattern (R9). -/
opaque valrdyRest : Word

/-- `VALRDY_MASK`: 32 bits, non-zero, otherwise open (R9, D8). Every non-zero word is of this form. -/
def valrdyMask : Word :=
  valrdyRest ||| (1#32 <<< valrdyBit.val)

/-- `SRC`: the interrupt source identifier, open (R9, D17). -/
opaque src : Nat

/-- The open part of the six register addresses `ADDR_*` (R9, D7). -/
opaque regSlot : PeriphReg → Nat

/-- `ADDR_*`: multiples of 4 by construction (20_memory.md R51). No operation computes with them (R53). -/
def regAddr (r : PeriphReg) : Nat :=
  4 * regSlot r

/-- The premise that the six addresses are distinct (R9). -/
def AddrDistinct : Prop :=
  ∀ r r' : PeriphReg, regAddr r = regAddr r' → r = r'

/-- `E0`, the reset value of the event flag (10_state.md R30, D18): open. -/
opaque e0Evt : Bool

/-- `E0`, the reset value of the peripheral-local enable: open. -/
opaque e0Inten : Bool

/-- `E0`, the reset value of the controller's enable: open. -/
opaque e0CtlEn : Bool

/-- `E0`, the reset value of the controller's pending flag: open. -/
opaque e0CtlPend : Bool

/-- `E0`, the reset value of "generation started": open. -/
opaque e0Run : Bool

/-- The byte that the n-th VALUE read returns where the environment has chosen no value beforehand: a free
value, fresh at every read, under no law but the peripheral's range 0 to 255 (20_memory.md R46, U7). -/
opaque freeValue : Nat → Byte

/-- What stands on the `word` lines of the answer to a DRAW with `some = 0`, at the n-th event of the
trace: a free value, which nothing may read (30_encoding.md R73, U15). -/
opaque unreadWord : Nat → Word

end Config

end Sys2Proof
end

