-- ==== Sys2Proof/Syntax.lean ====
section
/-! DEFINITION. The five operations of spec/opcode_table.json, the event-word format E, and the names
under which a decoder rejects a word (30_encoding.md). -/

namespace Sys2Proof

/-- The continuation signal `Continuation{Done, More}` (30_encoding.md R66). -/
inductive Cont where
  | done
  | more
  deriving DecidableEq, Repr

/-- The input operations of the block, one constructor per row of the opcode map (30_encoding.md R61). -/
inductive Instr where
  /-- IRQ: one invocation of the interrupt handler (R62, R80). -/
  | irq
  /-- GET: request that a word be generated (R63, R110). -/
  | get
  /-- SETCLIENT cid: register the consumer (R64, R111). -/
  | setclient (cid : ClientId)
  /-- DRAW: one draw from the Delivery Iterator (R65, R100). -/
  | draw
  /-- RET k: the callback returns with its continuation signal (R66, R87). -/
  | ret (k : Cont)
  deriving DecidableEq, Repr

/-- Format E: the three fields of an event word (30_encoding.md R60). -/
structure FormatE where
  /-- Bits 15:12, the operation code. -/
  op : BitVec 4
  /-- Bits 11:8, which must be zero. -/
  z : BitVec 4
  /-- Bits 7:0, the operand, zero where the operation has none. -/
  arg : Byte
  deriving DecidableEq, Repr

/-- Why an event word is reserved: the classes of 30_encoding.md R68. -/
inductive Reserved where
  /-- `op` is 0 or 6 to 15. -/
  | op
  /-- `op` is 1 to 5 and `z` is not zero. -/
  | zField
  /-- A non-zero `arg` on an operation without operand, or RET with `arg[7:1]` not zero. -/
  | argField
  deriving DecidableEq, Repr

end Sys2Proof
end

