-- ==== Sys2Proof/WellFormed.lean ====
section
/-! DEFINITION. When an event word spells an operation: three checks on its fields (30_encoding.md R60,
R61, R68). The operand types of Instr hold exactly the encodable operands (R64: all 256 identifiers;
R66: two signals), so every Instr is well-formed, and it is the raw word that is checked. -/

namespace Sys2Proof

/-- `op` is one of the five operation codes (R61). -/
def FormatE.opKnown (f : FormatE) : Bool :=
  1#4 ≤ f.op && f.op ≤ 5#4

/-- `z` is `0000` (R60). -/
def FormatE.zZero (f : FormatE) : Bool :=
  f.z == 0#4

/-- `arg` is one the operation admits: anything for SETCLIENT (R64), 0 or 1 for RET (R66), else 0 (R60). -/
def FormatE.argFits (f : FormatE) : Bool :=
  if f.op = 3#4 then true
  else if f.op = 5#4 then f.arg ≤ 1#8
  else f.arg == 0#8

/-- The fields spell an operation. -/
def FormatE.wellFormed (f : FormatE) : Bool :=
  f.opKnown && f.zZero && f.argFits

/-- Every operand an `Instr` can hold is legal (R64, R66). -/
def Instr.wellFormed : Instr → Bool
  | .irq => true
  | .get => true
  | .setclient _ => true
  | .draw => true
  | .ret _ => true

end Sys2Proof
end

