-- ==== Sys2Proof/Decode.lean ====
section
/-! DEFINITION. The decoder of event words, total on all 65536 of them and rejecting by name, and the
encoder, both from the opcode map of 30_encoding.md R61. -/

namespace Sys2Proof

/-- The fields of an event word (R60). -/
def splitWord (w : EventWord) : FormatE where
  op := w.extractLsb' 12 4
  z := w.extractLsb' 8 4
  arg := w.extractLsb' 0 8

/-- The event word with the given fields (R60). -/
def joinWord (f : FormatE) : EventWord :=
  f.op ++ f.z ++ f.arg

/-- The continuation signal of `k = arg[0]` (R67): 0 is Done, 1 is More. -/
def contOfBit (k : Bool) : Cont :=
  if k then .more else .done

/-- The number of a continuation signal in RET's operand (R66, D5). -/
def contArg : Cont → Byte
  | .done => 0#8
  | .more => 1#8

/-- The operation that well-formed fields spell (R61); `none` where `op` names no operation. -/
def instrOfFields (f : FormatE) : Option Instr :=
  if f.op = 1#4 then some .irq
  else if f.op = 2#4 then some .get
  else if f.op = 3#4 then some (.setclient f.arg)
  else if f.op = 4#4 then some .draw
  else if f.op = 5#4 then some (.ret (contOfBit (f.arg.getLsbD 0)))
  else none

/-- The decoder: an operation, or the reason why the word is reserved (R61, R68). -/
def decode (w : EventWord) : Except Reserved Instr :=
  match instrOfFields (splitWord w) with
  | none => .error .op
  | some i =>
    if (splitWord w).zZero = false then .error .zField
    else if (splitWord w).argFits = false then .error .argField
    else .ok i

/-- The fields of an operation's event word (R61 to R66). -/
def fieldsOf : Instr → FormatE
  | .irq => ⟨1#4, 0#4, 0#8⟩
  | .get => ⟨2#4, 0#4, 0#8⟩
  | .setclient cid => ⟨3#4, 0#4, cid⟩
  | .draw => ⟨4#4, 0#4, 0#8⟩
  | .ret k => ⟨5#4, 0#4, contArg k⟩

/-- The encoder: the event word of an operation (R61). -/
def encode (i : Instr) : EventWord :=
  joinWord (fieldsOf i)

/-- The operation the decoder reads from `nbits` bits whose value is `w`, bit 0 the least significant
bit of the one 16-bit event word (R60: one length, one word); bits above `nbits` are zero. -/
def decodeTableWord (nbits w : Nat) : Option Instr :=
  if nbits ≤ 16 ∧ w < 2 ^ nbits then (decode (BitVec.ofNat 16 w)).toOption else none

end Sys2Proof
end

