-- ==== Sys2Proof/Machine/State.lean ====
section
/-! DEFINITION. The state of the block and of what surrounds it, as plain data, and the state after
reset (10_state.md; 60_exceptions.md R142; 70_reset_and_hazards.md R160). -/

namespace Sys2Proof.Machine

/-- The delivery sequencer's state (10_state.md R23). -/
inductive Seq where
  /-- No handler invocation is in progress. -/
  | idle
  /-- The consumer's callback has been invoked and has not returned: the Delivery Iterator exists. -/
  | deliver
  deriving DecidableEq, Repr

/-- The environment state E of 60_exceptions.md R142: five bits in the peripheral and the controller,
written by the block's outputs and never read by it (10_state.md R29). -/
structure EnvState where
  /-- The peripheral's value-ready event flag. -/
  evt : Bool
  /-- The peripheral-local interrupt enable for that event. -/
  inten : Bool
  /-- The controller's enable for `SRC`. -/
  ctlEn : Bool
  /-- The controller's pending flag for `SRC`. -/
  ctlPend : Bool
  /-- Generation has been started and has not yet produced its byte. -/
  run : Bool
  deriving DecidableEq, Repr

/-- The events of the output trace (00_scope.md R12). The byte count of a register access is always 4
and the source of a controller primitive is always `Config.src`, so neither is repeated in the event. -/
inductive Event where
  /-- `RD(REG) -> v`. -/
  | rd (reg : PeriphReg) (v : Word)
  /-- `WR(REG, v)`. -/
  | wr (reg : PeriphReg) (v : Word)
  /-- `CTL(op)`. -/
  | ctl (op : CtlOp)
  /-- `CB(c)`. -/
  | cb (c : ClientId)
  /-- `YIELD(r)`. -/
  | yield (r : Option Word)
  deriving DecidableEq, Repr

/-- What can happen to the machine at one moment: a party presents an event word (30_encoding.md R60;
the open account, 60_exceptions.md R145), or the environment moves (R144). -/
inductive Move where
  /-- An event word is presented to the block. -/
  | present (w : EventWord)
  /-- The environment settles what its next VALUE read returns (20_memory.md R46; the `.value` line of
  30_encoding.md R71). -/
  | supply (v : Word)
  /-- E-SAMPLE: the peripheral has produced one byte (R144). -/
  | sample
  /-- E-PEND: the enabled event sets the controller's pending flag (R144). -/
  | pend
  /-- E-FIRE: the controller presents IRQ (R144). -/
  | fire
  deriving DecidableEq, Repr

/-- The faults of the machine: none. "There is no error type and no failure surfaced to the caller"
(60_exceptions.md R130, R131; 00_scope.md R13), so the type has no constructor. -/
inductive Fault where
  deriving DecidableEq, Repr

/-- The refusals of the machine: presentations to which the spec gives no meaning (00_scope.md R13), and
moves the environment cannot make. Every one of them is safe: the run ends and no state follows. -/
inductive Refusal where
  /-- Raised by an arm of `exec` that has no meaning yet. Safe. -/
  | notModelled (mnemonic : String)
  /-- Raised when a reserved event word is presented (30_encoding.md R68, U1). Safe. -/
  | reservedWord (w : EventWord) (why : Reserved)
  /-- Raised by IRQ presented while a callback is in progress (40_interrupt_handler.md R80, U2). Safe. -/
  | irqDuringCallback
  /-- Raised by GET presented while a callback is in progress (42_control_surface.md R110, U2). Safe. -/
  | getDuringCallback
  /-- Raised by SETCLIENT presented while a callback is in progress (42_control_surface.md R111, U2). Safe. -/
  | setClientDuringCallback
  /-- Raised by DRAW presented outside a callback (41_delivery_iterator.md R104, U3). Safe. -/
  | drawOutsideCallback
  /-- Raised by RET presented outside a callback (40_interrupt_handler.md R87, U3). Safe. -/
  | retOutsideCallback
  /-- Raised by E-SAMPLE, E-PEND or E-FIRE when its condition does not hold: the environment has no such
  move (60_exceptions.md R144). Safe. -/
  | moveDisabled (m : Move)
  deriving DecidableEq, Repr

/-- The state: the block's four registers (10_state.md R20 to R23), the environment's five bits (R29),
the output trace, and the inputs still to come. -/
structure State where
  /-- The byte-index counter (R20). -/
  idx : Index
  /-- The accumulator (R21). -/
  acc : Word
  /-- The client registration (R22). -/
  client : Option ClientId
  /-- The delivery sequencer's state (R23). -/
  seq : Seq
  /-- The environment state E (R29; 60_exceptions.md R142). -/
  env : EnvState
  /-- Every event output so far, oldest first (00_scope.md R12). -/
  trace : List Event
  /-- The moves still to come, next first. -/
  agenda : List Move
  /-- What the environment has settled that its next VALUE read returns, if it has. -/
  valueIn : Option Word
  /-- How many VALUE reads have taken a free value: the model's own counter. -/
  freeReads : Nat
  /-- The model argument `P_NOCLIENT_RESET` (00_scope.md R9, 40_interrupt_handler.md R85); no step writes it. -/
  noClientReset : Bool
  deriving DecidableEq, Repr

/-- The machine right after reset (10_state.md R30, 70_reset_and_hazards.md R160): `idx` and `acc` zero,
no client, IDLE, the environment at the open parameter E0, no output made, nothing presented. -/
def State.reset : State where
  idx := 0#3
  acc := 0#32
  client := none
  seq := .idle
  env := ⟨Config.e0Evt, Config.e0Inten, Config.e0CtlEn, Config.e0CtlPend, Config.e0Run⟩
  trace := []
  agenda := []
  valueIn := none
  freeReads := 0
  noClientReset := false

end Sys2Proof.Machine
end

