-- ==== Sys2Proof/Machine/Flags.lean ====
section
/-! DEFINITION. The block has no flag register (10_state.md R24); what stands in its place are the three
state classes, predicates of `idx` alone. -/

namespace Sys2Proof.Machine

/-- Collecting: `idx` is 0 to 3 (R24). -/
def collecting (s : State) : Bool :=
  s.idx ≤ 3#3

/-- Ready: `idx` is 4 (R24). -/
def ready (s : State) : Bool :=
  s.idx == 4#3

/-- Invalid: `idx` is 5 or more (R24). -/
def invalid (s : State) : Bool :=
  5#3 ≤ s.idx

end Sys2Proof.Machine
end

