-- ==== Sys2Proof/Machine/Operands.lean ====
section
/-! DEFINITION. The operand forms. `cid` and `k` reach the meanings as the decoder gives them
(30_encoding.md R67); the implicit operand of IRQ is the low byte of the value read from VALUE
(20_memory.md R46), placed at a byte position of the accumulator (40_interrupt_handler.md R82). -/

namespace Sys2Proof.Machine

/-- What the next VALUE read returns: the environment's choice where it has made one, which may be any 32
bits (20_memory.md R46, U6); else a free byte, `v[31:8] = 0` (60_exceptions.md R143, U7). -/
def nextValue (s : State) : Word :=
  match s.valueIn with
  | some v => v
  | none => (Config.freeValue s.freeReads).setWidth 32

/-- The byte the block uses of a value read: `v[7:0]` (20_memory.md R46). -/
def sampleOf (v : Word) : Byte :=
  v.extractLsb' 0 8

/-- `zext_32(b) << (8 * e)` (40_interrupt_handler.md R82, R88). -/
def placeByte (b : Byte) (e : Index) : Word :=
  b.setWidth 32 <<< (8 * e.toNat)

end Sys2Proof.Machine
end

