-- ==== Sys2Proof/Machine/Ops.lean ====
section
/-! DEFINITION. The operations the meanings share: the five output primitives (00_scope.md R12), the
three subroutines (42_control_surface.md R112 to R114), the handler's entry and its end (60_exceptions.md
R135, R136), and the two writes of the generation state. -/

namespace Sys2Proof.Machine

/-- The effect of a register write on the environment (60_exceptions.md R143). A write no rule performs
has none (20_memory.md R41, R42, U16). -/
def envAfterWrite (e : EnvState) (r : PeriphReg) (v : Word) : EnvState :=
  match r with
  | .eventValrdy => if v = 0#32 then { e with evt := false } else e
  | .taskStart => if v = 1#32 then { e with run := true } else e
  | .intenset => { e with inten := true }
  | .intenclr => { e with inten := false }
  | .inten => e
  | .value => e

/-- The effect of a controller primitive on the environment (60_exceptions.md R143). -/
def envAfterCtl (e : EnvState) (op : CtlOp) : EnvState :=
  match op with
  | .enable => { e with ctlEn := true }
  | .disable => { e with ctlEn := false }
  | .clearPend => { e with ctlPend := false }

/-- The effect of one output event on the environment (60_exceptions.md R143). -/
def envAfter (e : EnvState) (ev : Event) : EnvState :=
  match ev with
  | .wr r v => envAfterWrite e r v
  | .ctl op => envAfterCtl e op
  | .rd _ _ => e
  | .cb _ => e
  | .yield _ => e

/-- Append one event to the trace; its effect on the environment is complete before the next event
(00_scope.md R12, 20_memory.md R55). -/
def emit (ev : Event) (s : State) : State :=
  { s with trace := s.trace ++ [ev], env := envAfter s.env ev }

/-- `MemWrite(REG, 4, v)` (00_scope.md R12). -/
def memWrite (r : PeriphReg) (v : Word) (s : State) : State :=
  emit (.wr r v) s

/-- `Ctl(op, SRC)` (00_scope.md R12, 20_memory.md R48). -/
def ctl (op : CtlOp) (s : State) : State :=
  emit (.ctl op) s

/-- `Callback(c)` (00_scope.md R12). -/
def callback (c : ClientId) (s : State) : State :=
  emit (.cb c) s

/-- `Yield(r)` (00_scope.md R12). -/
def yieldAnswer (r : Option Word) (s : State) : State :=
  emit (.yield r) s

/-- One VALUE read is used up: the environment's choice is spent, or one more free value is taken. -/
def consumeValue (s : State) : State :=
  match s.valueIn with
  | some _ => { s with valueIn := none }
  | none => { s with freeReads := s.freeReads + 1 }

/-- `MemRead(VALUE, 4)`, which returns `nextValue s` (20_memory.md R46). -/
def memReadValue (s : State) : State :=
  emit (.rd .value (nextValue s)) (consumeValue s)

/-- `EnableInterrupts()`: the controller first, then the peripheral (42_control_surface.md R113). -/
def enableInterrupts (s : State) : State :=
  memWrite .intenset Config.valrdyMask (ctl .enable s)

/-- `DisableInterrupts()`: the peripheral, the controller, the pending flag (42_control_surface.md R114). -/
def disableInterrupts (s : State) : State :=
  ctl .clearPend (ctl .disable (memWrite .intenclr Config.valrdyMask s))

/-- `StartRng()`: clear the event flag, enable, start (42_control_surface.md R112). -/
def startRng (s : State) : State :=
  memWrite .taskStart 1#32 (enableInterrupts (memWrite .eventValrdy 0#32 s))

/-- Handler entry, in every state class: mask the source and read exactly one byte; nothing is saved
(40_interrupt_handler.md R83, 60_exceptions.md R135). -/
def handlerEntry (s : State) : State :=
  memReadValue (disableInterrupts s)

/-- The callback begins: the handler is suspended in it and the iterator exists (40_interrupt_handler.md R84). -/
def enterCallback (c : ClientId) (s : State) : State :=
  { callback c s with seq := .deliver }

/-- The handler ends after a callback: nothing is restored and the iterator no longer exists
(40_interrupt_handler.md R87, 60_exceptions.md R136). -/
def leaveCallback (s : State) : State :=
  { s with seq := .idle }

/-- `idx <- 0; acc <- 0` (40_interrupt_handler.md R86, 41_delivery_iterator.md R100). -/
def clearGeneration (s : State) : State :=
  { s with idx := 0#3, acc := 0#32 }

/-- OR a byte into the accumulator at position `idx` and count it (40_interrupt_handler.md R82). -/
def accumulate (b : Byte) (s : State) : State :=
  { s with acc := s.acc ||| placeByte b s.idx, idx := s.idx + 1#3 }

end Sys2Proof.Machine
end

