-- ==== Sys2Proof/Machine/Control.lean ====
section
/-! DEFINITION. The control surface: GET and SETCLIENT (42_control_surface.md). -/

namespace Sys2Proof.Machine

/-- GET (R110). -/
def execGet (s : State) : Host.Outcome State Fault Refusal :=
  match s.seq with
  | .idle => .next (startRng s)
  | .deliver => .refused .getDuringCallback

/-- Register a consumer, overwriting any registration (R111). -/
def registerClient (cid : ClientId) (s : State) : State :=
  { s with client := some cid }

/-- SETCLIENT cid (R111). -/
def execSetclient (cid : ClientId) (s : State) : Host.Outcome State Fault Refusal :=
  match s.seq with
  | .idle => .next (registerClient cid s)
  | .deliver => .refused .setClientDuringCallback

end Sys2Proof.Machine
end

