-- ==== Sys2Proof/Machine/Handler.lean ====
section
/-! DEFINITION. The interrupt handler: IRQ and RET (40_interrupt_handler.md). -/

namespace Sys2Proof.Machine

/-- The Collecting branch: accumulate and re-arm, always (R82). -/
def irqCollecting (b : Byte) (s : State) : State :=
  startRng (accumulate b s)

/-- The Ready branch: call the registered consumer back (R84), or, with none registered, write nothing
unless `P_NOCLIENT_RESET` asks for the reset (R85). -/
def irqReady (s : State) : State :=
  match s.client with
  | some c => enterCallback c s
  | none => if s.noClientReset then clearGeneration s else s

/-- The Invalid branch: silent reset, no callback, no re-arm (R86). -/
def irqInvalid (s : State) : State :=
  clearGeneration s

/-- The dispatch on `idx`, made once (R81). -/
def irqDispatch (b : Byte) (s : State) : State :=
  if collecting s then irqCollecting b s
  else if ready s then irqReady s
  else irqInvalid s

/-- IRQ (R80). -/
def execIrq (s : State) : Host.Outcome State Fault Refusal :=
  match s.seq with
  | .idle => .next (irqDispatch (sampleOf (nextValue s)) (handlerEntry s))
  | .deliver => .refused .irqDuringCallback

/-- The handler's last action: re-arm on More, not on Done (R87). -/
def afterCallback (k : Cont) (s : State) : State :=
  match k with
  | .more => startRng s
  | .done => s

/-- RET k (R87). -/
def execRet (k : Cont) (s : State) : Host.Outcome State Fault Refusal :=
  match s.seq with
  | .deliver => .next (leaveCallback (afterCallback k s))
  | .idle => .refused .retOutsideCallback

end Sys2Proof.Machine
end

