-- ==== Sys2Proof/Machine/Iterator.lean ====
section
/-! DEFINITION. The delivery iterator: DRAW (41_delivery_iterator.md). -/

namespace Sys2Proof.Machine

/-- One draw: the word and the reset where `idx` is 4 at this moment, else nothing (R100). -/
def drawOnce (s : State) : State :=
  if ready s then yieldAnswer (some s.acc) (clearGeneration s) else yieldAnswer none s

/-- DRAW (R100, R104). -/
def execDraw (s : State) : Host.Outcome State Fault Refusal :=
  match s.seq with
  | .deliver => .next (drawOnce s)
  | .idle => .refused .drawOutsideCallback

end Sys2Proof.Machine
end

