-- ==== Sys2Proof/Machine/Dispatch.lean ====
section
/-! DEFINITION. The dispatch: one arm per constructor of Instr. -/

namespace Sys2Proof.Machine

def exec (i : Instr) (s : State) : Host.Outcome State Fault Refusal :=
  match i with
  | .irq => Sys2Proof.Machine.execIrq s
  | .get => Sys2Proof.Machine.execGet s
  | .setclient cid => Sys2Proof.Machine.execSetclient cid s
  | .draw => Sys2Proof.Machine.execDraw s
  | .ret k => Sys2Proof.Machine.execRet k s

end Sys2Proof.Machine
end

