-- ==== Sys2Proof/Machine/Environment.lean ====
section
/-! DEFINITION. One move: an event word is presented to the block (30_encoding.md R60, R68), or the
environment moves (60_exceptions.md R144). -/

namespace Sys2Proof.Machine

/-- An event word is presented: the block performs the operation it spells, or refuses a reserved word
(30_encoding.md R60, R68). -/
def present (w : EventWord) (s : State) : Host.Outcome State Fault Refusal :=
  match decode w with
  | .ok i => exec i s
  | .error why => .refused (.reservedWord w why)

/-- The condition of an environment move (60_exceptions.md R144). Presenting a word and settling the next
value have none. -/
def moveEnabled (m : Move) (s : State) : Bool :=
  match m with
  | .present _ => true
  | .supply _ => true
  | .sample => s.env.run
  | .pend => s.env.evt && s.env.inten
  | .fire => s.env.ctlPend && s.env.ctlEn && s.seq == .idle

/-- The environment settles its next VALUE read (20_memory.md R46). DESIGN CHOICE (log entry 2): of two values
settled with no read between them the later replaces the earlier, which is never read; the spec does not say. -/
def supplyValue (v : Word) (s : State) : State :=
  { s with valueIn := some v }

/-- E-SAMPLE (60_exceptions.md R144). -/
def envSample (s : State) : State :=
  { s with env := { s.env with evt := true, run := false } }

/-- E-PEND (60_exceptions.md R144). -/
def envPend (s : State) : State :=
  { s with env := { s.env with ctlPend := true } }

/-- What an enabled move does. E-FIRE presents the event word of IRQ (30_encoding.md R62) and changes
nothing itself. -/
def performMove (m : Move) (s : State) : Host.Outcome State Fault Refusal :=
  match m with
  | .present w => present w s
  | .supply v => .next (supplyValue v s)
  | .sample => .next (envSample s)
  | .pend => .next (envPend s)
  | .fire => present 0x1000#16 s

/-- One move: performed where its condition holds; otherwise there is no such move. -/
def takeMove (m : Move) (s : State) : Host.Outcome State Fault Refusal :=
  if moveEnabled m s then performMove m s else .refused (.moveDisabled m)

/-- The next move of the agenda is taken; with none left the block waits and nothing changes
(70_reset_and_hazards.md R161, R177). -/
def takeNext (s : State) : Host.Outcome State Fault Refusal :=
  match s.agenda with
  | [] => .next s
  | m :: rest => takeMove m { s with agenda := rest }

/-- The agenda with an event word presented next. -/
def presentNext (w : EventWord) (s : State) : State :=
  { s with agenda := .present w :: s.agenda }

end Sys2Proof.Machine
end

