-- ==== Sys2Proof/Machine/Step.lean ====
section
/-! DEFINITION. One step of the machine. -/

namespace Sys2Proof.Machine

/-- One step: the next move of the agenda. -/
def step (s : State) : Host.Outcome State Fault Refusal :=
  takeNext s

/-- The state in which the event word `w` is presented next (30_encoding.md R60: one 16-bit word, given
whole). The block fetches nothing (10_state.md R26), so this stands for the presentation. -/
def State.withFetchWord (s : State) (nbits w : Nat) : State :=
  presentNext (BitVec.ofNat 16 (w % 2 ^ nbits)) s

end Sys2Proof.Machine
end

