-- ==== Sys2Proof/Machine/Carrier.lean ====
section
/-! DEFINITION. The output events as bits on the block's interfaces (30_encoding.md R73). No operation
reads a carrier; they are the view a test bench has of the trace. -/

namespace Sys2Proof.Machine

/-- The carriers of 30_encoding.md R73. -/
inductive Carrier where
  /-- Register bus write: register name and 32 bits. -/
  | busWrite (reg : PeriphReg) (v : Word)
  /-- Register bus read: register name and the 32 bits returned. -/
  | busRead (reg : PeriphReg) (v : Word)
  /-- Controller port: `op` 2 bits, and the constant source `SRC`. -/
  | ctlPort (op : BitVec 2) (src : Nat)
  /-- Consumer port, word-ready strobe: 8 bits. -/
  | strobe (c : ClientId)
  /-- Consumer port, answer to DRAW: `some` 1 bit and `word` 32 bits. -/
  | answer (some : Bool) (word : Word)
  deriving DecidableEq, Repr

/-- ENABLE = 0, DISABLE = 1, CLEARPEND = 2; 3 is reserved and never emitted (R73, U18). -/
def ctlCode (op : CtlOp) : BitVec 2 :=
  match op with
  | .enable => 0#2
  | .disable => 1#2
  | .clearPend => 2#2

/-- The carrier of the n-th event of a trace. The word lines of an answer with `some = 0` hold a free
value (R73, U15). -/
def carrierOf (n : Nat) (e : Event) : Carrier :=
  match e with
  | .wr r v => .busWrite r v
  | .rd r v => .busRead r v
  | .ctl op => .ctlPort (ctlCode op) Config.src
  | .cb c => .strobe c
  | .yield (some w) => .answer true w
  | .yield none => .answer false (Config.unreadWord n)

end Sys2Proof.Machine
end

