-- ==== Sys2Proof/Machine/Script.lean ====
section
/-! DEFINITION. The script syntax of the spec's test vectors, its pseudo-operations, and what loading a
script means: event words presented in order (30_encoding.md R71, R72). -/

namespace Sys2Proof.Machine

/-- One line of a script after its pseudo-operations are expanded (R71). -/
inductive ScriptLine where
  /-- An operation. -/
  | op (i : Instr)
  /-- `.value b`: the next VALUE read returns `zext_32(b)`. -/
  | value (b : Byte)
  /-- `.state idx=n acc=w`: a test harness sets the start state (10_state.md R33). -/
  | force (n : Index) (w : Word)
  deriving DecidableEq, Repr

/-- IRQB b (R72). -/
def irqbLines (b : Byte) : List ScriptLine :=
  [.value b, .op .irq]

/-- WORD b0, b1, b2, b3 (R72). -/
def wordLines (b0 b1 b2 b3 : Byte) : List ScriptLine :=
  irqbLines b0 ++ irqbLines b1 ++ irqbLines b2 ++ irqbLines b3

/-- TAKE (R72). -/
def takeLines : List ScriptLine :=
  [.op .draw, .op (.ret .done)]

/-- TAKEMORE (R72). -/
def takeMoreLines : List ScriptLine :=
  [.op .draw, .op (.ret .more)]

/-- START (R72). -/
def startLines : List ScriptLine :=
  [.op .get]

/-- The characters of a line before its comment (R71: `;` to the end of the line). DESIGN CHOICE (log entry
12): this follows R71 also where 95_test_vectors.md P3 writes `;` between operations of one line. -/
def dropComment : List Char → List Char
  | [] => []
  | c :: cs => if c = ';' then [] else c :: dropComment cs

/-- Put a finished word of a line before the words after it. -/
def closeToken (cur : List Char) (rest : List (List Char)) : List (List Char) :=
  match cur with
  | [] => rest
  | _ :: _ => cur.reverse :: rest

/-- The words of a line, separated by blanks and commas; `cur` holds the word being read, reversed. -/
def tokensFrom : List Char → List Char → List (List Char)
  | cur, [] => closeToken cur []
  | cur, c :: cs =>
    if c = ' ' ∨ c = '\t' ∨ c = ',' then closeToken cur (tokensFrom [] cs) else tokensFrom (c :: cur) cs

/-- The value of a digit in base 16. -/
def digitValue (c : Char) : Option Nat :=
  if '0'.toNat ≤ c.toNat ∧ c.toNat ≤ '9'.toNat then some (c.toNat - '0'.toNat)
  else if 'a'.toNat ≤ c.toNat ∧ c.toNat ≤ 'f'.toNat then some (c.toNat - 'a'.toNat + 10)
  else if 'A'.toNat ≤ c.toNat ∧ c.toNat ≤ 'F'.toNat then some (c.toNat - 'A'.toNat + 10)
  else none

/-- The number that digits spell in a base, read after the number `acc`. -/
def digitsValue (base : Nat) : Nat → List Char → Option Nat
  | acc, [] => some acc
  | acc, c :: cs =>
    match digitValue c with
    | none => none
    | some d => if d < base then digitsValue base (acc * base + d) cs else none

/-- A decimal or `0x` hexadecimal number (R71), of any digit count, leading zeros included. DESIGN CHOICE (log
entry 12): R71 writes hexadecimal as `0x..` and does not say how many digits, nor of which case. -/
def numberOf (cs : List Char) : Option Nat :=
  match cs with
  | [] => none
  | ['0', 'x'] => none
  | '0' :: 'x' :: ds => digitsValue 16 0 ds
  | ds => digitsValue 10 0 ds

/-- A number of at most `w` bits (R71: a byte and a client identifier are 0 to 255). -/
def bitsOf (w : Nat) (cs : List Char) : Option (BitVec w) :=
  match numberOf cs with
  | none => none
  | some n => if n < 2 ^ w then some (BitVec.ofNat w n) else none

/-- The lines that the words of one line of text stand for; `none` where the text is no line of the
grammar (R71, R72). An empty line is none. DESIGN CHOICE (log entry 12): R71 does not define the `n` and the
`word32` of `.state`; `n` is read as any number below 8 and `word32` as any number below 2^32, each decimal or
`0x` hexadecimal, of any digit count, and no blank stands on either side of the `=`. -/
def linesOfTokens (ts : List (List Char)) : Option (List ScriptLine) :=
  match ts with
  | [] => some []
  | [['I', 'R', 'Q']] => some [.op .irq]
  | [['G', 'E', 'T']] => some [.op .get]
  | [['S', 'T', 'A', 'R', 'T']] => some startLines
  | [['D', 'R', 'A', 'W']] => some [.op .draw]
  | [['T', 'A', 'K', 'E']] => some takeLines
  | [['T', 'A', 'K', 'E', 'M', 'O', 'R', 'E']] => some takeMoreLines
  | [['R', 'E', 'T'], ['D', 'O', 'N', 'E']] => some [.op (.ret .done)]
  | [['R', 'E', 'T'], ['M', 'O', 'R', 'E']] => some [.op (.ret .more)]
  | [['S', 'E', 'T', 'C', 'L', 'I', 'E', 'N', 'T'], c] => (bitsOf 8 c).map fun cid => [.op (.setclient cid)]
  | [['I', 'R', 'Q', 'B'], b] => (bitsOf 8 b).map irqbLines
  | [['.', 'v', 'a', 'l', 'u', 'e'], b] => (bitsOf 8 b).map fun v => [.value v]
  | [['W', 'O', 'R', 'D'], b0, b1, b2, b3] =>
    match bitsOf 8 b0, bitsOf 8 b1, bitsOf 8 b2, bitsOf 8 b3 with
    | some c0, some c1, some c2, some c3 => some (wordLines c0 c1 c2 c3)
    | _, _, _, _ => none
  | [['.', 's', 't', 'a', 't', 'e'], 'i' :: 'd' :: 'x' :: '=' :: n, 'a' :: 'c' :: 'c' :: '=' :: a] =>
    match bitsOf 3 n, bitsOf 32 a with
    | some i, some w => some [.force i w]
    | _, _ => none
  | _ => none

/-- The lines one line of text stands for (R71, R72). -/
def linesOfText (text : List Char) : Option (List ScriptLine) :=
  linesOfTokens (tokensFrom [] (dropComment text))

/-- Every move is the settling of a value: nothing has been presented and the environment has not moved. -/
def onlySettles (ms : List Move) : Bool :=
  ms.all fun m =>
    match m with
    | .supply _ => true
    | .present _ => false
    | .sample => false
    | .pend => false
    | .fire => false

/-- Add a line to what is to happen. Forcing sets the start state and is no move of any agent
(70_reset_and_hazards.md R179). DESIGN CHOICE (log entry 12): it is done only while nothing but values has
been settled, and a `.state` line after an operation is refused, where R71's grammar sets no order. -/
def addLine (s : State) (l : ScriptLine) : Option State :=
  match l with
  | .op i => some { s with agenda := s.agenda ++ [.present (encode i)] }
  | .value b => some { s with agenda := s.agenda ++ [.supply (b.setWidth 32)] }
  | .force n w => if onlySettles s.agenda then some { s with idx := n, acc := w } else none

/-- The state in which a script is about to run from `s`. -/
def loadScript : State → List ScriptLine → Option State
  | s, [] => some s
  | s, l :: ls =>
    match addLine s l with
    | none => none
    | some s' => loadScript s' ls

end Sys2Proof.Machine
end

