-- ==== Sys2Proof/Safety.lean ====
section
/-! DEFINITION. The terms in which claims about the block are made: the traces of its subroutines, its
contexts, its invariants, the closed account of the environment, and what the trace says of the words
delivered. Nothing here is used by the machine. -/

namespace Sys2Proof.Safety

open Sys2Proof.Machine

/-- The trace of `DisableInterrupts()` (42_control_surface.md R114). -/
def maskTrace : List Event :=
  [.wr .intenclr Config.valrdyMask, .ctl .disable, .ctl .clearPend]

/-- The trace of `StartRng()` (42_control_surface.md R112). -/
def armTrace : List Event :=
  [.wr .eventValrdy 0x00000000#32, .ctl .enable, .wr .intenset Config.valrdyMask, .wr .taskStart 0x00000001#32]

/-- The environment after `DisableInterrupts()` (60_exceptions.md R143). -/
def maskedEnv (e : EnvState) : EnvState :=
  { e with inten := false, ctlEn := false, ctlPend := false }

/-- The environment after `StartRng()` (60_exceptions.md R143). -/
def armedEnv (e : EnvState) : EnvState :=
  { e with evt := false, inten := true, ctlEn := true, run := true }

/-- The quiet environment, `E0 = (0, 0, 0, 0, 0)` (60_exceptions.md R142). -/
def quietEnv : EnvState :=
  ⟨false, false, false, false, false⟩

/-- The two execution contexts (60_exceptions.md R139). -/
inductive Context where
  | interrupt
  | consumer
  deriving DecidableEq, Repr

/-- Interrupt context is IRQ, DRAW and RET; consumer context is GET and SETCLIENT (R139). -/
def contextOf : Instr → Context
  | .irq => .interrupt
  | .get => .consumer
  | .setclient _ => .consumer
  | .draw => .interrupt
  | .ret _ => .interrupt

/-- The sequencer state in which an operation is accepted (30_encoding.md R69). -/
def acceptedIn : Instr → Seq
  | .irq => .idle
  | .get => .idle
  | .setclient _ => .idle
  | .draw => .deliver
  | .ret _ => .deliver

/-- The operation a move performs, if it performs one: E-FIRE presents IRQ (60_exceptions.md R144). -/
def operationOf : Move → Option Instr
  | .present w => (decode w).toOption
  | .fire => some .irq
  | .supply _ => none
  | .sample => none
  | .pend => none

/-- Whether an operation performed in `s` ends with the source enabled again (60_exceptions.md R136,
42_control_surface.md R112). -/
def rearms (i : Instr) (s : State) : Bool :=
  match i with
  | .irq => s.idx ≤ 3#3
  | .get => true
  | .setclient _ => false
  | .draw => false
  | .ret k => k == .more

/-- Byte position `p` of a word (10_state.md R21). -/
def byteAt (w : Word) (p : Nat) : Byte :=
  w.extractLsb' (8 * p) 8

/-- The reachable-state invariant of 10_state.md R25. -/
def Collected (s : State) : Prop :=
  s.idx ≤ 4#3 ∧ ∀ p : Nat, p < 4 → s.idx.toNat ≤ p → byteAt s.acc p = 0#8

/-- A VALUE read. -/
def isValueRead : Event → Bool
  | .rd .value _ => true
  | _ => false

/-- A write of TASK_START: the last access of a `StartRng()`. -/
def isStart : Event → Bool
  | .wr .taskStart _ => true
  | _ => false

/-- A call of the consumer. -/
def isCallback : Event → Bool
  | .cb _ => true
  | _ => false

/-- While a callback is in progress a client is registered and was the last thing called or started, the
source is masked at both gates with nothing pending, and the word is whole or has been taken
(60_exceptions.md R137, 95_test_vectors.md Q5). -/
def DeliveryMasked (s : State) : Prop :=
  s.seq = .deliver →
    s.client ≠ none ∧
      (s.trace.filter fun e => isStart e || isCallback e).getLast? = s.client.map Event.cb ∧
      s.env.inten = false ∧ s.env.ctlEn = false ∧ s.env.ctlPend = false ∧
      (s.idx = 4#3 ∨ (s.idx = 0#3 ∧ s.acc = 0#32))

/-- Nobody is called before somebody has been registered (95_test_vectors.md Q6). -/
def CalledOnlyIfRegistered (s : State) : Prop :=
  s.client = none → ∀ e ∈ s.trace, isCallback e = false

/-- The accesses the block makes and no others (20_memory.md R47; 42_control_surface.md R117). -/
def Allowed : Event → Prop
  | .rd r _ => r = .value
  | .wr .taskStart v => v = 1#32
  | .wr .eventValrdy v => v = 0#32
  | .wr .intenset v => v = Config.valrdyMask
  | .wr .intenclr v => v = Config.valrdyMask
  | .wr .inten _ => False
  | .wr .value _ => False
  | .ctl _ => True
  | .cb _ => True
  | .yield _ => True

/-- The word that samples make, the first in the least significant byte (20_memory.md R50). -/
def assemble : List Byte → Word
  | [] => 0#32
  | b :: bs => b.setWidth 32 ||| (assemble bs <<< 8)

/-- What an observer of the trace knows: the samples collected for the word in progress, and whether
every word yielded so far was made of the four samples before it. -/
structure WordLog where
  bytes : List Byte
  good : Bool
  deriving DecidableEq, Repr

/-- The observer at one event: a read is collected while the word wants bytes, later reads are lost
(40_interrupt_handler.md R83), and a yielded word must be the four samples (95_test_vectors.md Q2). -/
def observe (o : WordLog) : Event → WordLog
  | .rd .value v => if o.bytes.length < 4 then { o with bytes := o.bytes ++ [sampleOf v] } else o
  | .yield (some w) => ⟨[], o.good && o.bytes.length == 4 && w == assemble o.bytes⟩
  | _ => o

/-- The observer after a whole trace. -/
def observeAll (t : List Event) : WordLog :=
  t.foldl observe ⟨[], true⟩

/-- The block agrees with the observer of its trace, under the spec's reading of a missing consumer
(`P_NOCLIENT_RESET` false): `idx` counts the samples, `acc` is made of them, every yielded word was right. -/
def WordsTrue (s : State) : Prop :=
  s.noClientReset = false ∧ s.idx ≤ 4#3 ∧ (observeAll s.trace).good = true ∧
    (observeAll s.trace).bytes.length = s.idx.toNat ∧ assemble (observeAll s.trace).bytes = s.acc

/-- A value within the peripheral's contract: one byte, `v[31:8] = 0` (60_exceptions.md R143). -/
def oneByte (v : Word) : Bool :=
  v.extractLsb' 8 24 == 0#24

/-- A move of the closed account: IRQ is presented by E-FIRE only (60_exceptions.md R144), and the value
settled for a VALUE read is one byte (R143). -/
def closedMove : Move → Bool
  | .present w => w != 0x1000#16
  | .supply v => oneByte v
  | .sample => true
  | .pend => true
  | .fire => true

/-- The inputs are those of the closed account: every move still to come is one of its moves, and a value
already settled is one byte. A read with nothing settled returns one byte by `nextValue`. -/
abbrev ClosedAccount (s : State) : Prop :=
  (∀ m ∈ s.agenda, closedMove m = true) ∧ s.valueIn.all oneByte = true

/-- The invariant of the closed account from a quiet start (60_exceptions.md R144, consequences (a) to
(c)): the two gates move together, nothing is pending behind closed gates, a produced byte and a running
generation exclude each other, and the IRQs so far never outnumber the starts. -/
def ClosedInv (s : State) : Prop :=
  s.env.inten = s.env.ctlEn ∧ (s.env.ctlPend = true → s.env.ctlEn = true) ∧
    (s.env.evt = true → s.env.run = false) ∧ (s.seq = .deliver → s.env.ctlEn = false) ∧
    s.trace.countP isValueRead + s.env.ctlEn.toNat ≤ s.trace.countP isStart

/-- The move presents an operation: its word spells one. E-FIRE is a move of the environment machine and
is asked about by `envQuiet` (log entry 16). -/
def presentsOperation : Move → Bool
  | .present w => (decode w).toOption.isSome
  | .supply _ => false
  | .sample => false
  | .pend => false
  | .fire => false

/-- Quiescent: IDLE and no operation presented, now or later (70_reset_and_hazards.md R177; log entry 16). -/
def quiescent (s : State) : Bool :=
  s.seq == .idle && s.agenda.all fun m => !presentsOperation m

/-- No environment move is enabled, as 70_reset_and_hazards.md R177 writes the three conditions. -/
def envQuiet (e : EnvState) : Bool :=
  !e.run && !(e.evt && e.inten) && !(e.ctlPend && e.ctlEn)

/-- Finished: quiescent, and in addition no environment move is enabled (70_reset_and_hazards.md R177). -/
def finished (s : State) : Bool :=
  quiescent s && envQuiet s.env

/-- The three moves of the environment machine (60_exceptions.md R144). -/
def envMoves : List Move :=
  [.sample, .pend, .fire]

/-- An endless run: at each moment one move is taken, or none and nothing changes. -/
def IsRun (moves : Nat → Option Move) (run : Nat → State) : Prop :=
  ∀ k, match moves k with
    | none => run (k + 1) = run k
    | some m => takeMove m (run k) = .next (run (k + 1))

/-- `P_ENV_FAIR`: each environment move, once enabled and staying enabled, eventually happens
(60_exceptions.md R144, D26). A premise of liveness claims, never assumed by the machine. -/
def envFair (moves : Nat → Option Move) (run : Nat → State) : Prop :=
  ∀ m ∈ envMoves, ∀ n, (∀ k, n ≤ k → moveEnabled m (run k) = true) → ∃ k, n ≤ k ∧ moves k = some m

/-- The block's own registers (10_state.md section 1). -/
def blockOf (s : State) : Index × Word × Option ClientId × Seq :=
  (s.idx, s.acc, s.client, s.seq)

end Sys2Proof.Safety
end

