-- ==== Sys2Proof/Certificates/Slice0/Obligations.lean ====
section
/-! DEFINITION. The statements about the model, for the provers. Each docstring names the rule of spec/
it formalises; where a clause rests on a decision or an inference the spec marks as its own, or on a
choice of the model, the docstring says which. -/

open Sys2Proof Sys2Proof.Machine Sys2Proof.Safety

/-! Encoding. -/

/-- 30_encoding.md R61 to R67 (the encoding is the spec's decision D4): no bit of an operand is lost. -/
def Obligations.DecodeInvertsEncode : Prop :=
  ∀ i : Instr, Instr.wellFormed i = true → decode (encode i) = .ok i

/-- 30_encoding.md R61, R68 (D4): a word has at most one meaning, and only the encoder's word has it. -/
def Obligations.EncodeInvertsDecode : Prop :=
  ∀ (w : EventWord) (i : Instr), decode w = .ok i → encode i = w

/-- 30_encoding.md R61 and R67 (D4, D5), row by row with the table's masks and matches. -/
def Obligations.DecodeFollowsOpcodeMap : Prop :=
  ∀ w : EventWord,
    (decode w = .ok .irq ↔ w &&& 0xFFFF#16 = 0x1000#16) ∧
    (decode w = .ok .get ↔ w &&& 0xFFFF#16 = 0x2000#16) ∧
    (∀ cid : ClientId, decode w = .ok (.setclient cid) ↔
      w &&& 0xFF00#16 = 0x3000#16 ∧ cid = w.extractLsb' 0 8) ∧
    (decode w = .ok .draw ↔ w &&& 0xFFFF#16 = 0x4000#16) ∧
    (∀ k : Cont, decode w = .ok (.ret k) ↔
      w &&& 0xFFFE#16 = 0x5000#16 ∧ (w.getLsbD 0 = false → k = .done) ∧ (w.getLsbD 0 = true → k = .more))

/-- 30_encoding.md R60, R61 (D4): a word spells an operation exactly when its three fields are well-formed,
and what it spells is well-formed. -/
def Obligations.WellFormedFieldsSpellAnOperation : Prop :=
  ∀ w : EventWord,
    ((∃ i, decode w = .ok i) ↔ (splitWord w).opKnown = true ∧ (splitWord w).zZero = true ∧ (splitWord w).argFits = true) ∧
    ∀ i, decode w = .ok i → Instr.wellFormed i = true ∧ fieldsOf i = splitWord w

/-- 30_encoding.md R68 (D6): each class of reserved word is refused, by the name of its class, in every
state in which it is presented. -/
def Obligations.ReservedWordsAreRefused : Prop :=
  ∀ (w : EventWord) (s : State),
    (w.extractLsb' 12 4 = 0#4 ∨ 5#4 < w.extractLsb' 12 4 →
      takeMove (.present w) s = .refused (.reservedWord w .op)) ∧
    (1#4 ≤ w.extractLsb' 12 4 → w.extractLsb' 12 4 ≤ 5#4 → w.extractLsb' 8 4 ≠ 0#4 →
      takeMove (.present w) s = .refused (.reservedWord w .zField)) ∧
    (w.extractLsb' 12 4 = 1#4 ∨ w.extractLsb' 12 4 = 2#4 ∨ w.extractLsb' 12 4 = 4#4 →
      w.extractLsb' 8 4 = 0#4 → w.extractLsb' 0 8 ≠ 0#8 →
      takeMove (.present w) s = .refused (.reservedWord w .argField)) ∧
    (w.extractLsb' 12 4 = 5#4 → w.extractLsb' 8 4 = 0#4 → 2#8 ≤ w.extractLsb' 0 8 →
      takeMove (.present w) s = .refused (.reservedWord w .argField))

/-- 30_encoding.md R68 (D4, D6): the words that are operations, without repetition, are 261. -/
def Obligations.ExactlyTwoHundredSixtyOneWordsDecode : Prop :=
  ∃ l : List EventWord, l.Nodup ∧ l.length = 261 ∧ ∀ w : EventWord, w ∈ l ↔ ∃ i, decode w = .ok i

/-- 95_test_vectors.md 2.1: words written out from the spec's encoding. -/
def Obligations.SpecWordsDecode : Prop :=
  decode 0b0001000000000000#16 = .ok .irq ∧ decode 0b0010000000000000#16 = .ok .get ∧
    decode 0b0011000010000000#16 = .ok (.setclient 128#8) ∧ decode 0b0100000000000000#16 = .ok .draw ∧
    decode 0b0101000000000000#16 = .ok (.ret .done) ∧ decode 0b0101000000000001#16 = .ok (.ret .more) ∧
    decode 0b0000000000000000#16 = .error .op ∧ decode 0b0011111100000111#16 = .error .zField ∧
    decode 0b0101000000000011#16 = .error .argField

/-! Steps. -/

/-- 30_encoding.md R60: the word presented next is decoded and performed; the agenda is the model's
carrier of what is presented (log entry 1). -/
def Obligations.StepPerformsPresentedWord : Prop :=
  ∀ (s : State) (w : EventWord) (rest : List Move) (i : Instr),
    s.agenda = .present w :: rest → decode w = .ok i → Instr.wellFormed i = true →
    step s = exec i { s with agenda := rest }

/-- The states the table's words are run in: presenting a word changes nothing but what comes next
(log entry 1). -/
def Obligations.WithFetchWordPresentsTheWord : Prop :=
  ∀ (s : State) (w : EventWord) (i : Instr), decode w = .ok i →
    step (s.withFetchWord 16 w.toNat) = exec i s ∧ decodeTableWord 16 w.toNat = some i

/-- 70_reset_and_hazards.md R161: with nothing presented the block performs nothing (log entry 1: the
model's step then leaves the state as it is). -/
def Obligations.NothingPresentedNothingChanges : Prop :=
  ∀ s : State, s.agenda = [] → step s = .next s

/-- 60_exceptions.md R144 (the closed account, D16): the moves of the environment, each exactly where its
condition holds; E-FIRE is one presentation of IRQ. -/
def Obligations.EnvironmentMovesAreThoseOfTheClosedAccount : Prop :=
  ∀ s : State,
    (s.env.run = true →
      takeMove .sample s = .next { s with env := { s.env with evt := true, run := false } }) ∧
    (s.env.run = false → takeMove .sample s = .refused (.moveDisabled .sample)) ∧
    (s.env.evt = true → s.env.inten = true →
      takeMove .pend s = .next { s with env := { s.env with ctlPend := true } }) ∧
    (s.env.evt = false ∨ s.env.inten = false → takeMove .pend s = .refused (.moveDisabled .pend)) ∧
    (s.env.ctlPend = true → s.env.ctlEn = true → s.seq = .idle → takeMove .fire s = exec .irq s) ∧
    (s.env.ctlPend = false ∨ s.env.ctlEn = false ∨ s.seq = .deliver →
      takeMove .fire s = .refused (.moveDisabled .fire))

/-- 20_memory.md R46, 93_implementation_defined.md U6 and U7; that the environment settles a value
beforehand by a move, and counts the free ones, is the model's choice (log entry 2). An IRQ reads what is
settled and uses it up; with nothing settled it reads the next free byte; settling does nothing else. -/
def Obligations.AReadTakesTheSettledValueElseAFreeByte : Prop :=
  ∀ s : State,
    (∀ v, s.valueIn = some v → nextValue s = v ∧ consumeValue s = { s with valueIn := none }) ∧
    (s.valueIn = none → nextValue s = (Config.freeValue s.freeReads).setWidth 32 ∧
      consumeValue s = { s with freeReads := s.freeReads + 1 }) ∧
    (∀ v, s.seq = .idle → s.valueIn = some v → ∃ (t : State) (rest : List Event), exec .irq s = .next t ∧
      t.trace = s.trace ++ maskTrace ++ [.rd .value v] ++ rest ∧ t.valueIn = none ∧ t.freeReads = s.freeReads) ∧
    (s.seq = .idle → s.valueIn = none → ∃ (t : State) (rest : List Event), exec .irq s = .next t ∧
      t.trace = s.trace ++ maskTrace ++ [.rd .value ((Config.freeValue s.freeReads).setWidth 32)] ++ rest ∧
      t.valueIn = none ∧ t.freeReads = s.freeReads + 1) ∧
    ∀ v, takeMove (.supply v) s = .next { s with valueIn := some v }

/-! The operations. The equations give the whole next state, so each is also the frame of its operation.
In each, `nextValue` and `consumeValue` are the supply of VALUE values (log entry 2; the statement above
says what they are), and the effect of the accesses on `env` is 60_exceptions.md R143 (D16, log entry 4). -/

/-- 40_interrupt_handler.md R82 and the entry steps R83, in every state with `idx` 0 to 3, whether or not a
client is registered; that the byte is `v[7:0]` is 20_memory.md R46 (D9), the next `env` is 60_exceptions.md
R143 (D16, log entry 4), and `consumeValue` is log entry 2. -/
def Obligations.IrqCollectsOneByteAndRearms : Prop :=
  ∀ s : State, s.seq = .idle → s.idx ≤ 3#3 →
    exec .irq s = .next
      { consumeValue s with
        idx := s.idx + 1#3
        acc := s.acc ||| (((nextValue s).extractLsb' 0 8).setWidth 32 <<< (8 * s.idx.toNat))
        env := armedEnv (maskedEnv s.env)
        trace := s.trace ++ maskTrace ++ [.rd .value (nextValue s)] ++ armTrace }

/-- 40_interrupt_handler.md R84 (the callback carries the identifier only: D31). -/
def Obligations.IrqCallsTheRegisteredClient : Prop :=
  ∀ (s : State) (c : ClientId), s.seq = .idle → s.idx = 4#3 → s.client = some c →
    exec .irq s = .next
      { consumeValue s with
        seq := .deliver
        env := maskedEnv s.env
        trace := s.trace ++ maskTrace ++ [.rd .value (nextValue s)] ++ [.cb c] }

/-- 40_interrupt_handler.md R85 (D14), for both values of `P_NOCLIENT_RESET`. -/
def Obligations.IrqWithoutClientKeepsTheWord : Prop :=
  ∀ s : State, s.seq = .idle → s.idx = 4#3 → s.client = none →
    exec .irq s = .next
      { consumeValue s with
        idx := if s.noClientReset then 0#3 else 4#3
        acc := if s.noClientReset then 0x00000000#32 else s.acc
        env := maskedEnv s.env
        trace := s.trace ++ maskTrace ++ [.rd .value (nextValue s)] }

/-- 40_interrupt_handler.md R86 (no re-arm: D15), for every client. -/
def Obligations.IrqRecoversFromInvalidIndex : Prop :=
  ∀ s : State, s.seq = .idle → 5#3 ≤ s.idx →
    exec .irq s = .next
      { consumeValue s with
        idx := 0#3
        acc := 0x00000000#32
        env := maskedEnv s.env
        trace := s.trace ++ maskTrace ++ [.rd .value (nextValue s)] }

/-- 41_delivery_iterator.md R100: the word and the reset at `idx` 4, nothing at every other `idx`; outside a
callback a draw is refused (R104, the spec's decision D13; that a refusal ends the run is log entry 7). -/
def Obligations.DrawYieldsTheWordOnlyWhenReady : Prop :=
  ∀ s : State,
    (s.seq = .deliver → s.idx = 4#3 →
      exec .draw s = .next
        { s with idx := 0#3, acc := 0x00000000#32, trace := s.trace ++ [.yield (some s.acc)] }) ∧
    (s.seq = .deliver → s.idx ≠ 4#3 →
      exec .draw s = .next { s with trace := s.trace ++ [.yield none] }) ∧
    (s.seq = .idle → exec .draw s = .refused .drawOutsideCallback)

/-- 40_interrupt_handler.md R87 (refused outside a callback: D13). -/
def Obligations.RetRearmsOnMoreOnly : Prop :=
  ∀ s : State,
    (s.seq = .deliver →
      exec (.ret .more) s = .next
        { s with seq := .idle, env := armedEnv s.env, trace := s.trace ++ armTrace }) ∧
    (s.seq = .deliver → exec (.ret .done) s = .next { s with seq := .idle }) ∧
    (s.seq = .idle → ∀ k : Cont, exec (.ret k) s = .refused .retOutsideCallback)

/-- 42_control_surface.md R110 (refused during a callback: D11), whatever `idx` and `client` are. -/
def Obligations.GetArmsAndWritesNoRegister : Prop :=
  ∀ s : State,
    (s.seq = .idle → exec .get s = .next { s with env := armedEnv s.env, trace := s.trace ++ armTrace }) ∧
    (s.seq = .deliver → exec .get s = .refused .getDuringCallback)

/-- 42_control_surface.md R111 (refused during a callback: D11), for every earlier registration. -/
def Obligations.SetclientReplacesTheRegistration : Prop :=
  ∀ (s : State) (cid : ClientId),
    (s.seq = .idle → exec (.setclient cid) s = .next { s with client := some cid }) ∧
    (s.seq = .deliver → exec (.setclient cid) s = .refused .setClientDuringCallback)

/-! Rules about every operation. -/

/-- 30_encoding.md R69 (D11, D12, D13): the sequencer state alone decides whether an operation is
performed. -/
def Obligations.AcceptanceDependsOnTheSequencerOnly : Prop :=
  ∀ (i : Instr) (s : State), (∃ t, exec i s = .next t) ↔ s.seq = acceptedIn i

/-- 10_state.md R32 (a table the spec derives), for `idx`, `acc`, `client` and `seq`: what each operation
leaves unchanged. The other clauses are not R32's: `agenda` (log entry 1), `valueIn` and `freeReads` (log
entry 2) and `noClientReset` (log entry 6) are the model's own fields; that SETCLIENT makes no output, so
that `trace` (log entry 3) stays, is 42_control_surface.md R111, and that `env` (log entry 4) stays at
SETCLIENT and DRAW is 60_exceptions.md R143 (D16). -/
def Obligations.OperationsWriteOnlyTheirRegisters : Prop :=
  ∀ (i : Instr) (s t : State), exec i s = .next t →
    t.agenda = s.agenda ∧ t.noClientReset = s.noClientReset ∧
    (i ≠ .irq → t.valueIn = s.valueIn ∧ t.freeReads = s.freeReads) ∧
    (i = .irq → t.client = s.client) ∧
    (i = .get → t.idx = s.idx ∧ t.acc = s.acc ∧ t.client = s.client ∧ t.seq = s.seq) ∧
    (∀ cid, i = .setclient cid → t.idx = s.idx ∧ t.acc = s.acc ∧ t.seq = s.seq ∧ t.env = s.env ∧ t.trace = s.trace) ∧
    (i = .draw → t.client = s.client ∧ t.seq = s.seq ∧ t.env = s.env) ∧
    (∀ k, i = .ret k → t.idx = s.idx ∧ t.acc = s.acc ∧ t.client = s.client)

/-- 60_exceptions.md R139: whatever happens, `idx` and `acc` are written by an operation of interrupt
context, and by no other move. -/
def Obligations.OnlyInterruptContextWritesTheGenerationState : Prop :=
  ∀ (m : Move) (s t : State), takeMove m s = .next t → (t.idx ≠ s.idx ∨ t.acc ≠ s.acc) →
    ∃ i, operationOf m = some i ∧ contextOf i = .interrupt ∧ (i = .irq ∨ i = .draw)

/-- 10_state.md R24: the three classes exclude each other and leave none out, and a draw yields a word in
the Ready class only. -/
def Obligations.OneClassHoldsAndReadyAloneYields : Prop :=
  ∀ s : State,
    ((collecting s = true ∧ ready s = false ∧ invalid s = false) ∨
      (collecting s = false ∧ ready s = true ∧ invalid s = false) ∨
      (collecting s = false ∧ ready s = false ∧ invalid s = true)) ∧
    (collecting s = true ↔ s.idx.toNat ≤ 3) ∧ (ready s = true ↔ s.idx.toNat = 4) ∧
    (invalid s = true ↔ 5 ≤ s.idx.toNat) ∧
    ∀ (i : Instr) (t : State) (w : Word) (new : List Event), exec i s = .next t → t.trace = s.trace ++ new →
      Event.yield (some w) ∈ new → i = .draw ∧ ready s = true ∧ w = s.acc

/-- 42_control_surface.md R112: the same four accesses, in the same order, last, at each of the three
places that start generation, and no start anywhere else. What they leave in `env` is 60_exceptions.md R143
(the spec's decision D16; that the model keeps E under both accounts is log entry 4). -/
def Obligations.GenerationStartsFromThreePlacesAlike : Prop :=
  ∀ (i : Instr) (s t : State), exec i s = .next t →
    ((i = .get ∨ i = .ret .more ∨ (i = .irq ∧ s.idx ≤ 3#3)) → ∃ before, t.trace = s.trace ++ before ++ armTrace ∧
      before.countP isStart = 0 ∧ t.env = armedEnv (if i = .irq then maskedEnv s.env else s.env)) ∧
    (¬ (i = .get ∨ i = .ret .more ∨ (i = .irq ∧ s.idx ≤ 3#3)) → ∃ new, t.trace = s.trace ++ new ∧
      ∀ e ∈ new, e ≠ .wr .eventValrdy 0#32 ∧ e ≠ .ctl .enable ∧ e ≠ .wr .intenset Config.valrdyMask ∧
        isStart e = false)

/-- 42_control_surface.md R114: the disable sequence is the first thing every IRQ does, in its order, and
no other operation does any part of it. -/
def Obligations.DisablingIsTheFirstActionOfIrqAlone : Prop :=
  ∀ (i : Instr) (s t : State), exec i s = .next t →
    (i = .irq → ∃ after, t.trace = s.trace ++ [.wr .intenclr Config.valrdyMask, .ctl .disable, .ctl .clearPend] ++ after ∧
      ∀ e ∈ after, e ≠ .ctl .disable ∧ e ≠ .ctl .clearPend ∧ ∀ v, e ≠ .wr .intenclr v) ∧
    (i ≠ .irq → ∃ new, t.trace = s.trace ++ new ∧
      ∀ e ∈ new, e ≠ .ctl .disable ∧ e ≠ .ctl .clearPend ∧ ∀ v, e ≠ .wr .intenclr v)

/-- 40_interrupt_handler.md R83 (which marks as derived that the byte is lost off the Collecting branch),
95_test_vectors.md Q7: every IRQ masks, then reads VALUE once; no other operation reads. -/
def Obligations.EveryIrqMasksThenReadsOneByte : Prop :=
  ∀ (i : Instr) (s t : State), exec i s = .next t →
    (i = .irq → ∃ rest, t.trace = s.trace ++ maskTrace ++ [.rd .value (nextValue s)] ++ rest ∧
      rest.countP isValueRead = 0) ∧
    (i ≠ .irq → t.trace.countP isValueRead = s.trace.countP isValueRead)

/-- 20_memory.md R47 (derived by the spec) and 42_control_surface.md R117: over every move the trace only
grows, by the accesses the rules name; INTEN is never among them. That a move which performs no operation
adds nothing rests on 60_exceptions.md R144 (D16) and on the model's moves and trace (log entries 1 to 4). -/
def Obligations.TraceGrowsByTheNamedAccessesOnly : Prop :=
  ∀ (m : Move) (s t : State), takeMove m s = .next t →
    ∃ new, t.trace = s.trace ++ new ∧
      (∀ e ∈ new, Allowed e ∧ (∀ v, e ≠ .rd .inten v) ∧ ∀ v, e ≠ .wr .inten v) ∧
      (operationOf m = none → new = [])

/-- 42_control_surface.md R117: no move writes or reads INTEN, and the symmetric helpers write INTENSET and
INTENCLR only. -/
def Obligations.IntenIsNeverAccessed : Prop :=
  (∀ (m : Move) (s t : State), takeMove m s = .next t → ∀ new, t.trace = s.trace ++ new →
    ∀ v, .rd .inten v ∉ new ∧ .wr .inten v ∉ new) ∧
  ∀ s : State,
    (∃ new, (enableInterrupts s).trace = s.trace ++ new ∧ (∀ r v, .rd r v ∉ new) ∧
      ∀ r v, .wr r v ∈ new ↔ r = .intenset ∧ v = Config.valrdyMask) ∧
    ∃ new, (disableInterrupts s).trace = s.trace ++ new ∧ (∀ r v, .rd r v ∉ new) ∧
      ∀ r v, .wr r v ∈ new ↔ r = .intenclr ∧ v = Config.valrdyMask

/-- 60_exceptions.md R133: the gates open by a start and close by IRQ entry, and by nothing else; the event
flag is cleared by a start only. Which operations re-arm is R136 (derived by the spec); the generation bit
and what the environment's own moves keep are R142 to R144 (D16, log entry 4). -/
def Obligations.GatesMoveByStartAndEntryOnly : Prop :=
  ∀ (m : Move) (s t : State), takeMove m s = .next t →
    (∀ i, operationOf m = some i → rearms i s = true →
      t.env.inten = true ∧ t.env.ctlEn = true ∧ t.env.evt = false ∧ t.env.run = true ∧
        (i = .irq → t.env.ctlPend = false) ∧ (i ≠ .irq → t.env.ctlPend = s.env.ctlPend)) ∧
    (operationOf m = some .irq → rearms .irq s = false →
      t.env.inten = false ∧ t.env.ctlEn = false ∧ t.env.ctlPend = false ∧
        t.env.evt = s.env.evt ∧ t.env.run = s.env.run) ∧
    (∀ i, operationOf m = some i → i ≠ .irq → rearms i s = false → t.env = s.env) ∧
    (operationOf m = none → t.env.inten = s.env.inten ∧ t.env.ctlEn = s.env.ctlEn ∧
      (s.env.evt = true → t.env.evt = true) ∧ (s.env.ctlPend = true → t.env.ctlPend = true))

/-- 42_control_surface.md R118, 10_state.md R22: the registration changes by SETCLIENT only, and never back
to none. -/
def Obligations.RegistrationChangesBySetclientOnly : Prop :=
  ∀ (m : Move) (s t : State), takeMove m s = .next t →
    (t.client ≠ s.client → ∃ cid, operationOf m = some (.setclient cid) ∧ t.client = some cid) ∧
    (s.client ≠ none → t.client ≠ none)

/-- 41_delivery_iterator.md R103: a word leaves by a draw only, and `idx` or `acc` is cleared by a draw or
by the Invalid branch only (with the spec's reading of R85, D14: `P_NOCLIENT_RESET` false). -/
def Obligations.OnlyADrawDeliversAndClears : Prop :=
  ∀ (m : Move) (s t : State), takeMove m s = .next t →
    (∀ (w : Word) (new : List Event), t.trace = s.trace ++ new → Event.yield (some w) ∈ new →
      operationOf m = some .draw ∧ s.idx = 4#3 ∧ w = s.acc ∧ t.idx = 0#3 ∧ t.acc = 0#32) ∧
    (s.noClientReset = false → (t.idx = 0#3 ∧ s.idx ≠ 0#3) ∨ (t.acc = 0#32 ∧ s.acc ≠ 0#32) →
      operationOf m = some .draw ∨ (operationOf m = some .irq ∧ 5#3 ≤ s.idx))

/-! Invariants. -/

/-- 70_reset_and_hazards.md R160: the reset values (`client` is the spec's inference R22, `seq` its decision
D18; `P_NOCLIENT_RESET` false is R9; the trace, the agenda and the supply of values are the model's own
fields, log entries 1 to 3 and 6, and the environment is at the open E0, log entry 4). -/
def Obligations.ResetLeavesTheBlockEmpty : Prop :=
  blockOf State.reset = (0#3, 0x00000000#32, none, .idle) ∧ State.reset.trace = [] ∧
    State.reset.agenda = [] ∧ State.reset.valueIn = none ∧ State.reset.freeReads = 0 ∧
    State.reset.noClientReset = false ∧
    State.reset.env = ⟨Config.e0Evt, Config.e0Inten, Config.e0CtlEn, Config.e0CtlPend, Config.e0Run⟩

/-- Every invariant below holds at reset; that of the closed account under the named premise `E0 = 0`
(60_exceptions.md R142). -/
def Obligations.ResetMeetsEveryInvariant : Prop :=
  Collected State.reset ∧ DeliveryMasked State.reset ∧ CalledOnlyIfRegistered State.reset ∧
    WordsTrue State.reset ∧
    (State.reset.env = quietEnv → ClosedAccount State.reset ∧ ClosedInv State.reset)

/-- 10_state.md R25 (the spec's derivation). -/
def Obligations.StepKeepsTheCollectedInvariant : Prop :=
  ∀ s t : State, Collected s → step s = .next t → Collected t

/-- 60_exceptions.md R137, 95_test_vectors.md Q5 (D12, D28). -/
def Obligations.StepKeepsDeliveryMasked : Prop :=
  ∀ s t : State, DeliveryMasked s → step s = .next t → DeliveryMasked t

/-- 95_test_vectors.md Q6 (from R22, R84, R85). -/
def Obligations.StepKeepsCalledOnlyIfRegistered : Prop :=
  ∀ s t : State, CalledOnlyIfRegistered s → step s = .next t → CalledOnlyIfRegistered t

/-- 95_test_vectors.md Q2 (from R82, R88, R100; D14: `P_NOCLIENT_RESET` false): every word ever yielded is
made of the four samples collected before it. -/
def Obligations.StepKeepsYieldedWordsTrue : Prop :=
  ∀ s t : State, WordsTrue s → step s = .next t → WordsTrue t

/-- 60_exceptions.md R144, consequences (b) and (c) (the closed account, D16). -/
def Obligations.StepKeepsTheClosedAccount : Prop :=
  ∀ s t : State, ClosedAccount s → ClosedInv s → step s = .next t → ClosedAccount t ∧ ClosedInv t

/-- 60_exceptions.md R143, the row of RD (the closed account, D16): every VALUE read of the closed account
returns one byte, `v[31:8] = 0`, and nothing but VALUE is read. That the account is said of the agenda and
of the value already settled is the model's choice (log entries 2 and 4). -/
def Obligations.ClosedReadsReturnOneByte : Prop :=
  ∀ s t : State, ClosedAccount s → step s = .next t → ∀ new, t.trace = s.trace ++ new →
    ∀ r v, .rd r v ∈ new → r = .value ∧ v = (v.extractLsb' 0 8).setWidth 32

/-- 60_exceptions.md R144, consequence (a) (the closed account, D16): behind closed gates no IRQ happens,
and the gates stay closed until generation is started, by GET or by RET More. -/
def Obligations.ClosedGatesStayClosedUntilAStart : Prop :=
  ∀ s t : State, ClosedAccount s → s.env.ctlEn = false → step s = .next t →
    t.trace.countP isValueRead = s.trace.countP isValueRead ∧
      (t.env.ctlEn = false ∨
        ∃ (w : EventWord) (i : Instr) (rest : List Move), s.agenda = .present w :: rest ∧ decode w = .ok i ∧
          (i = .get ∨ i = .ret .more) ∧ t.trace = s.trace ++ armTrace)

/-- 95_test_vectors.md Q8 (from R86): one IRQ restores the invariant of R25 from any Invalid state. -/
def Obligations.OneIrqRestoresTheInvariant : Prop :=
  ∀ s : State, s.seq = .idle → 5#3 ≤ s.idx → ∃ t, exec .irq s = .next t ∧ Collected t

/-! Several operations in a row. -/

/-- 40_interrupt_handler.md R88, 20_memory.md R50: four samples from an empty accumulator make a
little-endian word; only the low byte of each value counts (R46, D9). -/
def Obligations.FourSamplesMakeALittleEndianWord : Prop :=
  ∀ (s : State) (v0 v1 v2 v3 : Word), s.idx = 0#3 → s.acc = 0#32 → s.seq = .idle →
    s.agenda = [.supply v0, .present 0x1000#16, .supply v1, .present 0x1000#16, .supply v2, .present 0x1000#16,
      .supply v3, .present 0x1000#16] →
    ∃ t : State, Host.Core.run Sys2Proof.core 8 s = .next t ∧ t.idx = 4#3 ∧
      t.acc = (v0.extractLsb' 0 8).setWidth 32 ||| ((v1.extractLsb' 0 8).setWidth 32 <<< 8) |||
        ((v2.extractLsb' 0 8).setWidth 32 <<< 16) ||| ((v3.extractLsb' 0 8).setWidth 32 <<< 24) ∧
      (t.acc.extractLsb' 0 8 = v0.extractLsb' 0 8 ∧ t.acc.extractLsb' 8 8 = v1.extractLsb' 0 8 ∧
        t.acc.extractLsb' 16 8 = v2.extractLsb' 0 8 ∧ t.acc.extractLsb' 24 8 = v3.extractLsb' 0 8) ∧
      t.client = s.client ∧ t.seq = .idle

/-- 70_reset_and_hazards.md R165 (derived by the spec; conflict C1): delivery is on the fifth invocation,
which makes the fifth read. -/
def Obligations.TheFifthInvocationDelivers : Prop :=
  ∀ (s : State) (c : ClientId), s.idx = 0#3 → s.seq = .idle → s.client = some c →
    s.agenda = List.replicate 5 (.present 0x1000#16) →
    ∃ t4 t5 : State, Host.Core.run Sys2Proof.core 4 s = .next t4 ∧ Host.Core.run Sys2Proof.core 5 s = .next t5 ∧
      t4.seq = .idle ∧ t4.idx = 4#3 ∧ t4.trace.countP isCallback = s.trace.countP isCallback ∧
      t5.seq = .deliver ∧ t5.idx = 4#3 ∧ t5.acc = t4.acc ∧ t5.trace.getLast? = some (.cb c) ∧
      t5.trace.countP isValueRead = s.trace.countP isValueRead + 5

/-- 40_interrupt_handler.md R89 (derived by the spec): the net effect of one whole delivery, for every
number of draws and both continuation signals. The last clause, on `env`, is 60_exceptions.md R143 (D16, log
entry 4); the agenda is log entry 1. -/
def Obligations.DeliveryNetEffect : Prop :=
  ∀ (s : State) (c : ClientId) (n : Nat) (k : Cont),
    s.idx = 4#3 → s.client = some c → s.seq = .idle →
    s.agenda = .present 0x1000#16 :: (List.replicate n (.present 0x4000#16) ++ [.present (encode (.ret k))]) →
    ∃ t : State, Host.Core.run Sys2Proof.core (n + 2) s = .next t ∧ t.seq = .idle ∧ t.client = some c ∧
      t.agenda = [] ∧
      (n = 0 → t.idx = 4#3 ∧ t.acc = s.acc) ∧ (0 < n → t.idx = 0#3 ∧ t.acc = 0#32) ∧
      t.trace = s.trace ++ maskTrace ++ [.rd .value (nextValue s), .cb c] ++
        ((List.range n).map fun j => Event.yield (if j = 0 then some s.acc else none)) ++
        (if k = .more then armTrace else []) ∧
      t.env = if k = .more then armedEnv (maskedEnv s.env) else maskedEnv s.env

/-- 42_control_surface.md R115 (derived by the spec), 95_test_vectors.md Q10: any number of GETs. -/
def Obligations.RepeatedGetsLeaveTheBlockAlone : Prop :=
  ∀ (n : Nat) (s : State), s.seq = .idle → s.agenda = List.replicate n (.present 0x2000#16) →
    Host.Core.run Sys2Proof.core n s = .next
      { s with
        agenda := []
        trace := s.trace ++ (List.replicate n armTrace).flatten
        env := if n = 0 then s.env else armedEnv s.env }

/-- 70_reset_and_hazards.md R168 (derived by the spec; D14: `P_NOCLIENT_RESET` false): a word completed with
no consumer goes to the one registered later. -/
def Obligations.AStaleWordReachesTheLateConsumer : Prop :=
  ∀ (s : State) (c : ClientId), s.idx = 4#3 → s.client = none → s.seq = .idle → s.noClientReset = false →
    s.agenda = [.present 0x1000#16, .present (encode (.setclient c)), .present 0x2000#16, .present 0x1000#16,
      .present 0x4000#16] →
    ∃ (t : State) (before : List Event), Host.Core.run Sys2Proof.core 5 s = .next t ∧
      t.trace = s.trace ++ before ++ [.cb c, .yield (some s.acc)] ∧ before.countP isCallback = 0 ∧
      t.client = some c ∧ t.idx = 0#3 ∧ t.seq = .deliver

/-- 70_reset_and_hazards.md R166 (derived by the spec): More without a draw calls back again with the same
word, and one more byte is read and lost. -/
def Obligations.MoreWithoutADrawCallsBackAgain : Prop :=
  ∀ (s : State) (c : ClientId), s.idx = 4#3 → s.client = some c → s.seq = .deliver →
    s.agenda = [.present 0x5001#16, .present 0x1000#16] →
    ∃ t : State, Host.Core.run Sys2Proof.core 2 s = .next t ∧ blockOf t = blockOf s ∧
      t.trace = s.trace ++ armTrace ++ maskTrace ++ [.rd .value (nextValue s), .cb c]

/-! What the block cannot see. -/

/-- 10_state.md R29: the environment state is written by the block's outputs and never read by it. -/
def Obligations.TheBlockNeverReadsTheEnvironmentState : Prop :=
  ∀ (i : Instr) (s t : State) (e : EnvState), exec i s = .next t →
    ∃ t' : State, exec i { s with env := e } = .next t' ∧ blockOf t' = blockOf t ∧ t'.trace = t.trace

/-- 20_memory.md R46 (D9): the bits above the low byte of a value read never reach a register. -/
def Obligations.HighBitsOfAValueNeverReachTheBlock : Prop :=
  ∀ (s : State) (v v' : Word), s.seq = .idle → v.extractLsb' 0 8 = v'.extractLsb' 0 8 →
    ∃ t t' : State, exec .irq { s with valueIn := some v } = .next t ∧
      exec .irq { s with valueIn := some v' } = .next t' ∧ blockOf t = blockOf t' ∧ t.env = t'.env

/-- 30_encoding.md R73 (D19): the carriers lose nothing of an event, and the controller code 3 is never
carried. -/
def Obligations.CarriersDetermineTheirEvents : Prop :=
  ∀ (n : Nat) (e e' : Event),
    (carrierOf n e = carrierOf n e' → e = e') ∧ ∀ src, carrierOf n e ≠ .ctlPort 3#2 src

/-- 30_encoding.md R71 (D27): a script of operations stands for their event words, in order. -/
def Obligations.ScriptsPresentTheirEventWordsInOrder : Prop :=
  ∀ (ops : List Instr) (s : State),
    loadScript s (ops.map ScriptLine.op) = some { s with agenda := s.agenda ++ ops.map fun i => .present (encode i) }

/-! The end of a run, and progress. -/

/-- 70_reset_and_hazards.md R177 (D16; what "presented" means of an agenda is log entry 16): quiescent is
IDLE with no operation presented; finished is quiescent with, in addition, none of the three conditions,
which says that every environment move is refused as disabled. A callback in progress is never the end. -/
def Obligations.FinishedMeansNoEnvironmentMove : Prop :=
  ∀ s : State,
    (quiescent s = true ↔ s.seq = .idle ∧ ∀ w i, .present w ∈ s.agenda → decode w ≠ .ok i) ∧
    (finished s = true ↔ quiescent s = true ∧ s.env.run = false ∧ ¬ (s.env.evt = true ∧ s.env.inten = true) ∧
      ¬ (s.env.ctlPend = true ∧ s.env.ctlEn = true)) ∧
    (finished s = true ↔ quiescent s = true ∧ ∀ m ∈ envMoves, takeMove m s = .refused (.moveDisabled m)) ∧
    (s.seq = .deliver → finished s = false ∧ quiescent s = false)

/-- 70_reset_and_hazards.md R177 (D16, log entry 16): from a finished state no step writes a register of the
block or of the environment or makes an output, and the run stays finished. -/
def Obligations.AFinishedRunStaysFinished : Prop :=
  ∀ s t : State, finished s = true → step s = .next t →
    finished t = true ∧ blockOf t = blockOf s ∧ t.env = s.env ∧ t.trace = s.trace

/-- 60_exceptions.md R144 and 70_reset_and_hazards.md R173 (D16, D26): with generation started, both gates
open and nobody presenting anything, a fair environment delivers the interrupt. Fairness is a premise
(`P_ENV_FAIR`), false by default. -/
def Obligations.AFairEnvironmentInterruptsTheArmedBlock : Prop :=
  ∀ (moves : Nat → Option Move) (run : Nat → State),
    IsRun moves run → envFair moves run → (∀ k m, moves k = some m → operationOf m = none ∨ m = .fire) →
    (run 0).seq = .idle → (run 0).env.run = true → (run 0).env.inten = true → (run 0).env.ctlEn = true →
    ∃ k, moves k = some .fire
end

