-- ==== Sys2Proof/Laws/Encoding.lean ====
section
/-! SUPPORT. The fields of an event word and the word of given fields determine each other. -/

namespace Sys2Proof

theorem getLsbD_joinWord (f : FormatE) (k : Nat) :
    (joinWord f).getLsbD k =
      if k < 8 then f.arg.getLsbD k else if k - 8 < 4 then f.z.getLsbD (k - 8) else f.op.getLsbD (k - 8 - 4) := by
  have h1 := BitVec.getLsbD_append (x := f.op ++ f.z) (y := f.arg) (i := k)
  have h2 := BitVec.getLsbD_append (x := f.op) (y := f.z) (i := k - 8)
  rw [h2] at h1
  exact h1

/-- No field of format E is lost in the word. -/
theorem splitWord_joinWord (f : FormatE) : splitWord (joinWord f) = f := by
  obtain ⟨op, z, arg⟩ := f
  simp only [splitWord, FormatE.mk.injEq]
  refine ⟨?_, ?_, ?_⟩ <;>
    (apply BitVec.eq_of_getLsbD_eq
     intro k hk
     rw [BitVec.getLsbD_extractLsb', getLsbD_joinWord])
  · have h1 : ¬ 12 + k < 8 := by omega
    have h2 : ¬ 12 + k - 8 < 4 := by omega
    have h3 : 12 + k - 8 - 4 = k := by omega
    simp [hk, h1, h2, h3]
  · have h1 : ¬ 8 + k < 8 := by omega
    have h2 : 8 + k - 8 = k := by omega
    simp [hk, h1, h2]
  · simp [hk]

/-- No bit of the word is outside the fields of format E (30_encoding.md R60). -/
theorem joinWord_splitWord (w : EventWord) : joinWord (splitWord w) = w := by
  apply BitVec.eq_of_getLsbD_eq
  intro k hk
  rw [getLsbD_joinWord]
  simp only [splitWord, BitVec.getLsbD_extractLsb']
  split
  case isTrue h => simp [h]
  case isFalse h =>
    split
    case isTrue h2 => simp [h2, show 8 + (k - 8) = k by omega]
    case isFalse h2 =>
      simp [show k - 8 - 4 < 4 by omega, show 12 + (k - 8 - 4) = k by omega]

end Sys2Proof
end

