-- ==== Sys2Proof/Laws/State.lean ====
section
/-! SUPPORT. One lemma per field per update, so that no proof unfolds a record update. -/

namespace Sys2Proof.Machine

/-! The fields after one output event. -/

@[simp] theorem emit_idx (ev : Event) (s : State) : (emit ev s).idx = s.idx := rfl
@[simp] theorem emit_acc (ev : Event) (s : State) : (emit ev s).acc = s.acc := rfl
@[simp] theorem emit_client (ev : Event) (s : State) : (emit ev s).client = s.client := rfl
@[simp] theorem emit_seq (ev : Event) (s : State) : (emit ev s).seq = s.seq := rfl
@[simp] theorem emit_env (ev : Event) (s : State) : (emit ev s).env = envAfter s.env ev := rfl
@[simp] theorem emit_trace (ev : Event) (s : State) : (emit ev s).trace = s.trace ++ [ev] := rfl
@[simp] theorem emit_agenda (ev : Event) (s : State) : (emit ev s).agenda = s.agenda := rfl
@[simp] theorem emit_valueIn (ev : Event) (s : State) : (emit ev s).valueIn = s.valueIn := rfl
@[simp] theorem emit_freeReads (ev : Event) (s : State) : (emit ev s).freeReads = s.freeReads := rfl
@[simp] theorem emit_noClientReset (ev : Event) (s : State) : (emit ev s).noClientReset = s.noClientReset := rfl

/-! The fields after the start of a callback. -/

@[simp] theorem enterCallback_idx (c : ClientId) (s : State) : (enterCallback c s).idx = s.idx := rfl
@[simp] theorem enterCallback_acc (c : ClientId) (s : State) : (enterCallback c s).acc = s.acc := rfl
@[simp] theorem enterCallback_client (c : ClientId) (s : State) : (enterCallback c s).client = s.client := rfl
@[simp] theorem enterCallback_seq (c : ClientId) (s : State) : (enterCallback c s).seq = .deliver := rfl
@[simp] theorem enterCallback_env (c : ClientId) (s : State) : (enterCallback c s).env = s.env := rfl
@[simp] theorem enterCallback_trace (c : ClientId) (s : State) : (enterCallback c s).trace = s.trace ++ [.cb c] := rfl
@[simp] theorem enterCallback_agenda (c : ClientId) (s : State) : (enterCallback c s).agenda = s.agenda := rfl
@[simp] theorem enterCallback_valueIn (c : ClientId) (s : State) : (enterCallback c s).valueIn = s.valueIn := rfl
@[simp] theorem enterCallback_freeReads (c : ClientId) (s : State) : (enterCallback c s).freeReads = s.freeReads := rfl
@[simp] theorem enterCallback_noClientReset (c : ClientId) (s : State) : (enterCallback c s).noClientReset = s.noClientReset := rfl

/-! The fields after the end of a callback. -/

@[simp] theorem leaveCallback_idx (s : State) : (leaveCallback s).idx = s.idx := rfl
@[simp] theorem leaveCallback_acc (s : State) : (leaveCallback s).acc = s.acc := rfl
@[simp] theorem leaveCallback_client (s : State) : (leaveCallback s).client = s.client := rfl
@[simp] theorem leaveCallback_seq (s : State) : (leaveCallback s).seq = .idle := rfl
@[simp] theorem leaveCallback_env (s : State) : (leaveCallback s).env = s.env := rfl
@[simp] theorem leaveCallback_trace (s : State) : (leaveCallback s).trace = s.trace := rfl
@[simp] theorem leaveCallback_agenda (s : State) : (leaveCallback s).agenda = s.agenda := rfl
@[simp] theorem leaveCallback_valueIn (s : State) : (leaveCallback s).valueIn = s.valueIn := rfl
@[simp] theorem leaveCallback_freeReads (s : State) : (leaveCallback s).freeReads = s.freeReads := rfl
@[simp] theorem leaveCallback_noClientReset (s : State) : (leaveCallback s).noClientReset = s.noClientReset := rfl

/-! The fields after the reset of the generation state. -/

@[simp] theorem clearGeneration_idx (s : State) : (clearGeneration s).idx = 0#3 := rfl
@[simp] theorem clearGeneration_acc (s : State) : (clearGeneration s).acc = 0#32 := rfl
@[simp] theorem clearGeneration_client (s : State) : (clearGeneration s).client = s.client := rfl
@[simp] theorem clearGeneration_seq (s : State) : (clearGeneration s).seq = s.seq := rfl
@[simp] theorem clearGeneration_env (s : State) : (clearGeneration s).env = s.env := rfl
@[simp] theorem clearGeneration_trace (s : State) : (clearGeneration s).trace = s.trace := rfl
@[simp] theorem clearGeneration_agenda (s : State) : (clearGeneration s).agenda = s.agenda := rfl
@[simp] theorem clearGeneration_valueIn (s : State) : (clearGeneration s).valueIn = s.valueIn := rfl
@[simp] theorem clearGeneration_freeReads (s : State) : (clearGeneration s).freeReads = s.freeReads := rfl
@[simp] theorem clearGeneration_noClientReset (s : State) : (clearGeneration s).noClientReset = s.noClientReset := rfl

/-! The fields after one byte collected. -/

@[simp] theorem accumulate_idx (b : Byte) (s : State) : (accumulate b s).idx = s.idx + 1#3 := rfl
@[simp] theorem accumulate_acc (b : Byte) (s : State) : (accumulate b s).acc = s.acc ||| placeByte b s.idx := rfl
@[simp] theorem accumulate_client (b : Byte) (s : State) : (accumulate b s).client = s.client := rfl
@[simp] theorem accumulate_seq (b : Byte) (s : State) : (accumulate b s).seq = s.seq := rfl
@[simp] theorem accumulate_env (b : Byte) (s : State) : (accumulate b s).env = s.env := rfl
@[simp] theorem accumulate_trace (b : Byte) (s : State) : (accumulate b s).trace = s.trace := rfl
@[simp] theorem accumulate_agenda (b : Byte) (s : State) : (accumulate b s).agenda = s.agenda := rfl
@[simp] theorem accumulate_valueIn (b : Byte) (s : State) : (accumulate b s).valueIn = s.valueIn := rfl
@[simp] theorem accumulate_freeReads (b : Byte) (s : State) : (accumulate b s).freeReads = s.freeReads := rfl
@[simp] theorem accumulate_noClientReset (b : Byte) (s : State) : (accumulate b s).noClientReset = s.noClientReset := rfl

/-! The fields after a registration. -/

@[simp] theorem registerClient_idx (c : ClientId) (s : State) : (registerClient c s).idx = s.idx := rfl
@[simp] theorem registerClient_acc (c : ClientId) (s : State) : (registerClient c s).acc = s.acc := rfl
@[simp] theorem registerClient_client (c : ClientId) (s : State) : (registerClient c s).client = some c := rfl
@[simp] theorem registerClient_seq (c : ClientId) (s : State) : (registerClient c s).seq = s.seq := rfl
@[simp] theorem registerClient_env (c : ClientId) (s : State) : (registerClient c s).env = s.env := rfl
@[simp] theorem registerClient_trace (c : ClientId) (s : State) : (registerClient c s).trace = s.trace := rfl
@[simp] theorem registerClient_agenda (c : ClientId) (s : State) : (registerClient c s).agenda = s.agenda := rfl
@[simp] theorem registerClient_valueIn (c : ClientId) (s : State) : (registerClient c s).valueIn = s.valueIn := rfl
@[simp] theorem registerClient_freeReads (c : ClientId) (s : State) : (registerClient c s).freeReads = s.freeReads := rfl
@[simp] theorem registerClient_noClientReset (c : ClientId) (s : State) : (registerClient c s).noClientReset = s.noClientReset := rfl

/-! The fields after a VALUE chosen by the environment. -/

@[simp] theorem supplyValue_idx (v : Word) (s : State) : (supplyValue v s).idx = s.idx := rfl
@[simp] theorem supplyValue_acc (v : Word) (s : State) : (supplyValue v s).acc = s.acc := rfl
@[simp] theorem supplyValue_client (v : Word) (s : State) : (supplyValue v s).client = s.client := rfl
@[simp] theorem supplyValue_seq (v : Word) (s : State) : (supplyValue v s).seq = s.seq := rfl
@[simp] theorem supplyValue_env (v : Word) (s : State) : (supplyValue v s).env = s.env := rfl
@[simp] theorem supplyValue_trace (v : Word) (s : State) : (supplyValue v s).trace = s.trace := rfl
@[simp] theorem supplyValue_agenda (v : Word) (s : State) : (supplyValue v s).agenda = s.agenda := rfl
@[simp] theorem supplyValue_valueIn (v : Word) (s : State) : (supplyValue v s).valueIn = some v := rfl
@[simp] theorem supplyValue_freeReads (v : Word) (s : State) : (supplyValue v s).freeReads = s.freeReads := rfl
@[simp] theorem supplyValue_noClientReset (v : Word) (s : State) : (supplyValue v s).noClientReset = s.noClientReset := rfl

/-! The fields after E-SAMPLE. -/

@[simp] theorem envSample_idx (s : State) : (envSample s).idx = s.idx := rfl
@[simp] theorem envSample_acc (s : State) : (envSample s).acc = s.acc := rfl
@[simp] theorem envSample_client (s : State) : (envSample s).client = s.client := rfl
@[simp] theorem envSample_seq (s : State) : (envSample s).seq = s.seq := rfl
@[simp] theorem envSample_env (s : State) : (envSample s).env = { s.env with evt := true, run := false } := rfl
@[simp] theorem envSample_trace (s : State) : (envSample s).trace = s.trace := rfl
@[simp] theorem envSample_agenda (s : State) : (envSample s).agenda = s.agenda := rfl
@[simp] theorem envSample_valueIn (s : State) : (envSample s).valueIn = s.valueIn := rfl
@[simp] theorem envSample_freeReads (s : State) : (envSample s).freeReads = s.freeReads := rfl
@[simp] theorem envSample_noClientReset (s : State) : (envSample s).noClientReset = s.noClientReset := rfl

/-! The fields after E-PEND. -/

@[simp] theorem envPend_idx (s : State) : (envPend s).idx = s.idx := rfl
@[simp] theorem envPend_acc (s : State) : (envPend s).acc = s.acc := rfl
@[simp] theorem envPend_client (s : State) : (envPend s).client = s.client := rfl
@[simp] theorem envPend_seq (s : State) : (envPend s).seq = s.seq := rfl
@[simp] theorem envPend_env (s : State) : (envPend s).env = { s.env with ctlPend := true } := rfl
@[simp] theorem envPend_trace (s : State) : (envPend s).trace = s.trace := rfl
@[simp] theorem envPend_agenda (s : State) : (envPend s).agenda = s.agenda := rfl
@[simp] theorem envPend_valueIn (s : State) : (envPend s).valueIn = s.valueIn := rfl
@[simp] theorem envPend_freeReads (s : State) : (envPend s).freeReads = s.freeReads := rfl
@[simp] theorem envPend_noClientReset (s : State) : (envPend s).noClientReset = s.noClientReset := rfl

/-! The fields after an event word put next. -/

@[simp] theorem presentNext_idx (w : EventWord) (s : State) : (presentNext w s).idx = s.idx := rfl
@[simp] theorem presentNext_acc (w : EventWord) (s : State) : (presentNext w s).acc = s.acc := rfl
@[simp] theorem presentNext_client (w : EventWord) (s : State) : (presentNext w s).client = s.client := rfl
@[simp] theorem presentNext_seq (w : EventWord) (s : State) : (presentNext w s).seq = s.seq := rfl
@[simp] theorem presentNext_env (w : EventWord) (s : State) : (presentNext w s).env = s.env := rfl
@[simp] theorem presentNext_trace (w : EventWord) (s : State) : (presentNext w s).trace = s.trace := rfl
@[simp] theorem presentNext_agenda (w : EventWord) (s : State) : (presentNext w s).agenda = .present w :: s.agenda := rfl
@[simp] theorem presentNext_valueIn (w : EventWord) (s : State) : (presentNext w s).valueIn = s.valueIn := rfl
@[simp] theorem presentNext_freeReads (w : EventWord) (s : State) : (presentNext w s).freeReads = s.freeReads := rfl
@[simp] theorem presentNext_noClientReset (w : EventWord) (s : State) : (presentNext w s).noClientReset = s.noClientReset := rfl

/-! A VALUE read used up changes the supply of values only. -/

@[simp] theorem consumeValue_idx (s : State) : (consumeValue s).idx = s.idx := by
  unfold consumeValue; split <;> rfl
@[simp] theorem consumeValue_acc (s : State) : (consumeValue s).acc = s.acc := by
  unfold consumeValue; split <;> rfl
@[simp] theorem consumeValue_client (s : State) : (consumeValue s).client = s.client := by
  unfold consumeValue; split <;> rfl
@[simp] theorem consumeValue_seq (s : State) : (consumeValue s).seq = s.seq := by
  unfold consumeValue; split <;> rfl
@[simp] theorem consumeValue_env (s : State) : (consumeValue s).env = s.env := by
  unfold consumeValue; split <;> rfl
@[simp] theorem consumeValue_trace (s : State) : (consumeValue s).trace = s.trace := by
  unfold consumeValue; split <;> rfl
@[simp] theorem consumeValue_agenda (s : State) : (consumeValue s).agenda = s.agenda := by
  unfold consumeValue; split <;> rfl
@[simp] theorem consumeValue_noClientReset (s : State) : (consumeValue s).noClientReset = s.noClientReset := by
  unfold consumeValue; split <;> rfl

/-- Whatever was settled is used up, so no read returns it twice. -/
@[simp] theorem consumeValue_valueIn (s : State) : (consumeValue s).valueIn = none := by
  unfold consumeValue; split
  · rfl
  · assumption

theorem consumeValue_of_some {s : State} {v : Word} (h : s.valueIn = some v) :
    consumeValue s = { s with valueIn := none } := by
  unfold consumeValue; rw [h]

theorem consumeValue_of_none {s : State} (h : s.valueIn = none) :
    consumeValue s = { s with freeReads := s.freeReads + 1 } := by
  unfold consumeValue; rw [h]

theorem nextValue_of_some {s : State} {v : Word} (h : s.valueIn = some v) : nextValue s = v := by
  unfold nextValue; rw [h]

theorem nextValue_of_none {s : State} (h : s.valueIn = none) :
    nextValue s = (Config.freeValue s.freeReads).setWidth 32 := by
  unfold nextValue; rw [h]

end Sys2Proof.Machine
end

