-- ==== Sys2Proof/Laws/Ops.lean ====
section
/-! SUPPORT. What each shared operation does, said once: the subroutines and the handler's entry in
closed form, the branches of the dispatch, and every way in which an operation or a move can be
performed. -/

namespace Sys2Proof.Machine

open Sys2Proof.Safety

theorem startRng_eq (s : State) :
    startRng s = { s with trace := s.trace ++ armTrace, env := armedEnv s.env } := by
  simp [startRng, enableInterrupts, memWrite, ctl, emit, envAfter, envAfterWrite, envAfterCtl, armTrace,
    armedEnv]

theorem disableInterrupts_eq (s : State) :
    disableInterrupts s = { s with trace := s.trace ++ maskTrace, env := maskedEnv s.env } := by
  simp [disableInterrupts, memWrite, ctl, emit, envAfter, envAfterWrite, envAfterCtl, maskTrace, maskedEnv]

theorem handlerEntry_eq (s : State) :
    handlerEntry s =
      { consumeValue s with
        trace := s.trace ++ maskTrace ++ [.rd .value (nextValue s)]
        env := maskedEnv s.env } := by
  unfold handlerEntry memReadValue emit
  rw [disableInterrupts_eq]
  unfold nextValue consumeValue
  cases s.valueIn <;> rfl

/-- Exactly one of the three classes holds (10_state.md R24). -/
theorem index_classes (i : Index) : i ≤ 3#3 ∨ i = 4#3 ∨ 5#3 ≤ i := by
  revert i; decide

theorem irqDispatch_collecting {s : State} (b : Byte) (h : s.idx ≤ 3#3) :
    irqDispatch b s = startRng (accumulate b s) := by
  simp [irqDispatch, collecting, irqCollecting, h]

theorem irqDispatch_ready {s : State} (b : Byte) (h : s.idx = 4#3) : irqDispatch b s = irqReady s := by
  simp [irqDispatch, collecting, ready, h]

theorem irqDispatch_invalid {s : State} (b : Byte) (h : 5#3 ≤ s.idx) :
    irqDispatch b s = clearGeneration s := by
  have h3 : ¬ s.idx ≤ 3#3 := by revert h; generalize s.idx = i; revert i; decide
  have h4 : ¬ s.idx = 4#3 := by revert h; generalize s.idx = i; revert i; decide
  simp [irqDispatch, collecting, ready, irqInvalid, h3, h4]

theorem irqReady_some {s : State} {c : ClientId} (h : s.client = some c) :
    irqReady s = enterCallback c s := by
  simp [irqReady, h]

theorem irqReady_none {s : State} (h : s.client = none) :
    irqReady s = if s.noClientReset then clearGeneration s else s := by
  simp [irqReady, h]

theorem drawOnce_ready {s : State} (h : s.idx = 4#3) :
    drawOnce s = yieldAnswer (some s.acc) (clearGeneration s) := by
  simp [drawOnce, ready, h]

theorem drawOnce_empty {s : State} (h : s.idx ≠ 4#3) : drawOnce s = yieldAnswer none s := by
  simp [drawOnce, ready, h]

/-- Every way in which an operation is performed. -/
theorem exec_next_cases {i : Instr} {s t : State} (h : exec i s = .next t) :
    (i = .irq ∧ s.seq = .idle ∧ t = irqDispatch (sampleOf (nextValue s)) (handlerEntry s)) ∨
    (i = .get ∧ s.seq = .idle ∧ t = startRng s) ∨
    (∃ cid, i = .setclient cid ∧ s.seq = .idle ∧ t = registerClient cid s) ∨
    (i = .draw ∧ s.seq = .deliver ∧ t = drawOnce s) ∨
    (i = .ret .more ∧ s.seq = .deliver ∧ t = leaveCallback (startRng s)) ∨
    (i = .ret .done ∧ s.seq = .deliver ∧ t = leaveCallback s) := by
  cases i with
  | irq => cases hq : s.seq <;> simp_all [exec, execIrq]
  | get => cases hq : s.seq <;> simp_all [exec, execGet]
  | setclient cid => cases hq : s.seq <;> simp_all [exec, execSetclient]
  | draw => cases hq : s.seq <;> simp_all [exec, execDraw]
  | ret k => cases k <;> cases hq : s.seq <;> simp_all [exec, execRet, afterCallback]

/-- The event word E-FIRE presents is IRQ (30_encoding.md R62). -/
theorem decode_irqWord : decode 0x1000#16 = .ok .irq := rfl

theorem present_ok {w : EventWord} {i : Instr} (s : State) (h : decode w = .ok i) :
    present w s = exec i s := by
  simp [present, h]

theorem present_reserved {w : EventWord} {r : Reserved} (s : State) (h : decode w = .error r) :
    present w s = .refused (.reservedWord w r) := by
  simp [present, h]

/-- Every way in which a move is performed. -/
theorem takeMove_next_cases {m : Move} {s t : State} (h : takeMove m s = .next t) :
    (∃ w i, m = .present w ∧ decode w = .ok i ∧ exec i s = .next t) ∨
    (m = .fire ∧ s.env.ctlPend = true ∧ s.env.ctlEn = true ∧ s.seq = .idle ∧ exec .irq s = .next t) ∨
    (∃ v, m = .supply v ∧ t = supplyValue v s) ∨
    (m = .sample ∧ s.env.run = true ∧ t = envSample s) ∨
    (m = .pend ∧ s.env.evt = true ∧ s.env.inten = true ∧ t = envPend s) := by
  unfold takeMove at h
  split at h
  case isFalse => cases h
  case isTrue he =>
    cases m with
    | present w =>
      cases hd : decode w with
      | ok i => exact .inl ⟨w, i, rfl, hd, by simpa [performMove, present, hd] using h⟩
      | error r => simp [performMove, present, hd] at h
    | supply v => simp_all [performMove]
    | sample => simp_all [performMove, moveEnabled]
    | pend => simp_all [performMove, moveEnabled]
    | fire =>
      simp only [performMove, present_ok s decode_irqWord] at h
      simp_all [moveEnabled]

theorem step_of_cons {s : State} {m : Move} {rest : List Move} (h : s.agenda = m :: rest) :
    step s = takeMove m { s with agenda := rest } := by
  simp [step, takeNext, h]

theorem step_of_nil {s : State} (h : s.agenda = []) : step s = .next s := by
  simp [step, takeNext, h]

/-- A step either waits or takes the next move. -/
theorem step_next_cases {s t : State} (h : step s = .next t) :
    (s.agenda = [] ∧ t = s) ∨
    ∃ m rest, s.agenda = m :: rest ∧ takeMove m { s with agenda := rest } = .next t := by
  cases ha : s.agenda with
  | nil => rw [step_of_nil ha] at h; cases h; exact .inl ⟨rfl, rfl⟩
  | cons m rest => rw [step_of_cons ha] at h; exact .inr ⟨m, rest, rfl, h⟩

end Sys2Proof.Machine
end

