-- ==== Sys2Proof/Laws/PerInstr.lean ====
section
/-! SUPPORT. A statement about every instruction as syntax: the form of its event word. -/

namespace Sys2Proof.Laws.Format

/-- An operation's event word is a well-formed word of format E with `z` zero (30_encoding.md R60, R61). -/
def Statement (i : Instr) : Prop :=
  Instr.wellFormed i = true ∧ (fieldsOf i).wellFormed = true ∧ (encode i).extractLsb' 8 4 = 0#4

theorem irq : Statement .irq := by
  refine ⟨rfl, ?_, ?_⟩ <;> decide

theorem get : Statement .get := by
  refine ⟨rfl, ?_, ?_⟩ <;> decide

theorem setclient (cid : ClientId) : Statement (.setclient cid) := by
  refine ⟨rfl, ?_, ?_⟩
  · simp [fieldsOf, FormatE.wellFormed, FormatE.opKnown, FormatE.zZero, FormatE.argFits]
  · exact congrArg FormatE.z (splitWord_joinWord (fieldsOf (.setclient cid)))

theorem draw : Statement .draw := by
  refine ⟨rfl, ?_, ?_⟩ <;> decide

theorem ret (k : Cont) : Statement (.ret k) := by
  cases k <;> refine ⟨rfl, ?_, ?_⟩ <;> decide

end Sys2Proof.Laws.Format
end

