-- ==== Sys2Proof/Laws/Run.lean ====
section
/-! SUPPORT. Runs of several steps, one step at a time. -/

namespace Sys2Proof.Machine

theorem run_zero (s : State) : Host.Core.run Sys2Proof.core 0 s = .next s := rfl

/-- One performed step of any machine of the host's interface. -/
theorem core_run_next (M : Host.Core) {s t : M.State} (k : Nat) (h : M.step s = .next t) :
    M.run (k + 1) s = M.run k t := by
  simp [Host.Core.run, h]

/-- A refused step ends the run of any machine of the host's interface. -/
theorem core_run_refused (M : Host.Core) {s : M.State} {r : M.Refusal} (k : Nat) (h : M.step s = .refused r) :
    M.run (k + 1) s = .refused r := by
  simp [Host.Core.run, h]

theorem run_next {s t : State} (k : Nat) (h : step s = .next t) :
    Host.Core.run Sys2Proof.core (k + 1) s = Host.Core.run Sys2Proof.core k t :=
  core_run_next Sys2Proof.core k h

theorem run_refused {s : State} {r : Refusal} (k : Nat) (h : step s = .refused r) :
    Host.Core.run Sys2Proof.core (k + 1) s = .refused r :=
  core_run_refused Sys2Proof.core k h

/-- A run of `j + k` steps is a run of `j` steps and a run of `k` steps. -/
theorem run_append {s t : State} (j k : Nat) (h : Host.Core.run Sys2Proof.core j s = .next t) :
    Host.Core.run Sys2Proof.core (j + k) s = Host.Core.run Sys2Proof.core k t := by
  induction j generalizing s with
  | zero =>
    cases h
    rw [Nat.zero_add]
  | succ j ih =>
    cases hs : step s with
    | next s' =>
      rw [run_next j hs] at h
      rw [Nat.succ_add, run_next (j + k) hs]
      exact ih h
    | fault r => cases r
    | refused r =>
      rw [run_refused j hs] at h
      cases h

end Sys2Proof.Machine
end

