-- ==== Sys2Proof/Tests/Slice0.lean ====
section
/-! SUPPORT. Tests whose expected results are the vectors of 95_test_vectors.md, and one witness for the
hypotheses of each obligation that has any. -/

namespace Sys2Proof.Tests

open Sys2Proof.Machine Sys2Proof.Safety

/-- A state of the block as 95_test_vectors.md writes it, in a quiet environment whose next VALUE read
returns `v`. -/
def at4 (idx : Index) (acc : Word) (client : Option ClientId) (seq : Seq) (v : Word) : State where
  idx := idx
  acc := acc
  client := client
  seq := seq
  env := quietEnv
  trace := []
  agenda := []
  valueIn := some v
  freeReads := 0
  noClientReset := false

/-- The outcome is a next state of which `p` holds. -/
def reaches (o : Host.Outcome State Fault Refusal) (p : State → Bool) : Bool :=
  match o with
  | .next t => p t
  | .fault _ => false
  | .refused _ => false

/-- The outcome is this refusal. -/
def refuses (o : Host.Outcome State Fault Refusal) (r : Refusal) : Bool :=
  match o with
  | .next _ => false
  | .fault _ => false
  | .refused r' => r' == r

/-! Well-formed words: one ill-formed term for each check, which the check refuses. -/

theorem test_opKnown_refuses_op_6 : FormatE.opKnown ⟨6#4, 0#4, 0#8⟩ = false := by decide
theorem test_zZero_refuses_z_1 : FormatE.zZero ⟨1#4, 1#4, 0#8⟩ = false := by decide
theorem test_argFits_refuses_irq_arg : FormatE.argFits ⟨1#4, 0#4, 1#8⟩ = false := by decide
theorem test_argFits_refuses_ret_arg_2 : FormatE.argFits ⟨5#4, 0#4, 2#8⟩ = false := by decide
theorem test_wellFormed_accepts_setclient_255 : FormatE.wellFormed ⟨3#4, 0#4, 255#8⟩ = true := by decide

/-! Decoding, bit by bit from 30_encoding.md R61. -/

theorem test_decode_irq : decode 0b0001000000000000#16 = .ok .irq := by decide
theorem test_decode_get : decode 0b0010000000000000#16 = .ok .get := by decide
theorem test_decode_setclient_7 : decode 0b0011000000000111#16 = .ok (.setclient 7#8) := by decide
theorem test_decode_draw : decode 0b0100000000000000#16 = .ok .draw := by decide
theorem test_decode_ret_done : decode 0b0101000000000000#16 = .ok (.ret .done) := by decide
theorem test_decode_ret_more : decode 0b0101000000000001#16 = .ok (.ret .more) := by decide
theorem test_decode_rejects_0000 : decode 0x0000#16 = .error .op := by decide
theorem test_decode_rejects_2F00 : decode 0x2F00#16 = .error .zField := by decide
theorem test_decode_rejects_4001 : decode 0x4001#16 = .error .argField := by decide
theorem test_decode_rejects_5003 : decode 0x5003#16 = .error .argField := by decide
theorem test_decode_rejects_FFFF : decode 0xFFFF#16 = .error .op := by decide
theorem test_table_setclient_255 : decodeTableWord 16 0x30FF = some (.setclient 255#8) := by decide
theorem test_table_ret_arg_2 : decodeTableWord 16 0x5002 = none := by decide

/-! The operations: vectors of 95_test_vectors.md 2.3 to 2.6. -/

/-- Vector I4: the fourth byte is the most significant, and this invocation calls nobody. -/
theorem test_irq_i4 : reaches (exec .irq (at4 3 0x00345678 none .idle 0x12))
    (fun t => t.idx == 4 && t.acc == 0x12345678 && t.seq == .idle && t.trace.length == 8) = true := by decide

/-- Vector I11: old bits survive, only the low byte of a value counts. -/
theorem test_irq_i11 : reaches (exec .irq (at4 1 0xFFFF0000 none .idle 0xABCDEF0F))
    (fun t => t.idx == 2 && t.acc == 0xFFFF0F00) = true := by decide

/-- Vector W1. -/
theorem test_draw_w1 : reaches (exec .draw (at4 4 0x12345678 (some 7) .deliver 0))
    (fun t => t.idx == 0 && t.acc == 0 && t.trace == [.yield (some 0x12345678)] && t.seq == .deliver) = true := by decide

/-- Vector W7. -/
theorem test_draw_w7 : reaches (exec .draw (at4 5 0xDEADBEEF (some 7) .deliver 0))
    (fun t => t.idx == 5 && t.acc == 0xDEADBEEF && t.trace == [.yield none]) = true := by decide

/-- Vector T3: the word stays, the hardware is armed. -/
theorem test_ret_t3 : reaches (exec (.ret .more) (at4 4 0x12345678 (some 7) .deliver 0))
    (fun t => t.idx == 4 && t.seq == .idle && t.env == ⟨false, true, true, false, true⟩) = true := by decide

/-- Vector T6. -/
theorem test_ret_t6 : refuses (exec (.ret .done) (at4 0 0 none .idle 0)) .retOutsideCallback = true := by decide

/-- Vector K4: GET does not look at `idx`; its trace is the four accesses of R112, in order. -/
theorem test_get_k4 : ∃ t, exec .get (at4 5 0xDEADBEEF none .idle 0) = .next t ∧ t.idx = 5 ∧
    t.trace = [.wr .eventValrdy 0, .ctl .enable, .wr .intenset Config.valrdyMask, .wr .taskStart 1] :=
  ⟨_, rfl, rfl, rfl⟩

/-- Vector K6. -/
theorem test_get_k6 :
    refuses (exec .get (at4 4 0x12345678 (some 7) .deliver 0)) .getDuringCallback = true := by decide

/-- Vector K8. -/
theorem test_setclient_k8 : reaches (exec (.setclient 2) (at4 2 0x5678 (some 1) .idle 0))
    (fun t => t.idx == 2 && t.acc == 0x5678 && t.client == some 2 && t.trace == []) = true := by decide

/-- Vector K13. -/
theorem test_setclient_k13 :
    refuses (exec (.setclient 2) (at4 4 0x12345678 (some 7) .deliver 0)) .setClientDuringCallback = true := by decide

/-! The rest of the machine. -/

/-- 95_test_vectors.md P6: IRQ is performed at reset under the open account. -/
theorem test_reset_irq : reaches (step ({ State.reset with valueIn := some 0x5A }.withFetchWord 16 0x1000))
    (fun t => t.idx == 1 && t.acc == 0x5A) = true := by decide

/-- 95_test_vectors.md P6: DRAW is refused at reset. -/
theorem test_reset_draw : refuses (step (State.reset.withFetchWord 16 0x4000)) .drawOutsideCallback = true := by decide

/-- 95_test_vectors.md 2.8: after E-SAMPLE the event is set and the generator is not running. -/
theorem test_sample : reaches (takeMove .sample { at4 0 0 none .idle 0 with env := ⟨false, true, true, false, true⟩ })
    (fun t => t.env == ⟨true, true, true, false, false⟩) = true := by decide

/-- 30_encoding.md R71: a commented line of a script. -/
theorem test_script_setclient : linesOfText ['S', 'E', 'T', 'C', 'L', 'I', 'E', 'N', 'T', ' ', '0', 'x', '0', '9', ' ', ';', '1'] =
    some [.op (.setclient 9)] := by decide

/-- 30_encoding.md R72: IRQB b is `.value b` then IRQ. -/
theorem test_script_irqb : linesOfText ['I', 'R', 'Q', 'B', ' ', '2', '5', '5'] = some [.value 255, .op .irq] := by decide

/-- 30_encoding.md R71: a byte is at most 255. -/
theorem test_script_byte_256 : linesOfText ['I', 'R', 'Q', 'B', ' ', '2', '5', '6'] = none := by decide

/-- 30_encoding.md R71: a `.state` line after a `.value` line, with nothing presented. -/
theorem test_script_force_after_value :
    (loadScript (at4 0 0 none .idle 0) [.value 1, .force 5 0xDEADBEEF]).map (fun s => (s.idx, s.agenda)) =
      some (5, [.supply 1]) := by decide

/-- 30_encoding.md R73. -/
theorem test_carrier_clearPend : carrierOf 0 (.ctl .clearPend) = .ctlPort 2#2 Config.src := rfl

/-- 20_memory.md R50, the first row of 95_test_vectors.md S1. -/
theorem test_assemble : assemble [0x78, 0x56, 0x34, 0x12] = 0x12345678 := by decide

/-! Witnesses: the hypotheses of each obligation hold together of something. -/

theorem witness_DecodeInvertsEncode : Instr.wellFormed (.setclient 255#8) = true := by decide

theorem witness_EncodeInvertsDecode : decode 0x30FF#16 = .ok (.setclient 255#8) := by decide

theorem witness_DecodeFollowsOpcodeMap_setclient :
    0x3000#16 &&& 0xFF00#16 = 0x3000#16 ∧ 0x30FF#16 &&& 0xFF00#16 = 0x3000#16 ∧ 0x3100#16 &&& 0xFF00#16 ≠ 0x3000#16 := by
  decide

theorem witness_DecodeFollowsOpcodeMap_ret :
    0x5001#16 &&& 0xFFFE#16 = 0x5000#16 ∧ 0x5001#16 = encode (.ret .more) ∧ 0x5002#16 &&& 0xFFFE#16 ≠ 0x5000#16 := by
  decide

theorem witness_ReservedWordsAreRefused_op :
    (0x0001#16).extractLsb' 12 4 = 0#4 ∧ 5#4 < (0x6000#16).extractLsb' 12 4 ∧ 5#4 < (0xFFFF#16).extractLsb' 12 4 := by
  decide

theorem witness_ReservedWordsAreRefused_z :
    1#4 ≤ (0x1100#16).extractLsb' 12 4 ∧ (0x5101#16).extractLsb' 12 4 ≤ 5#4 ∧ (0x5101#16).extractLsb' 8 4 ≠ 0#4 := by
  decide

theorem witness_ReservedWordsAreRefused_arg :
    (0x4001#16).extractLsb' 12 4 = 4#4 ∧ (0x4001#16).extractLsb' 8 4 = 0#4 ∧ (0x4001#16).extractLsb' 0 8 ≠ 0#8 := by
  decide

theorem witness_ReservedWordsAreRefused_ret :
    (0x5002#16).extractLsb' 12 4 = 5#4 ∧ (0x5002#16).extractLsb' 8 4 = 0#4 ∧ 2#8 ≤ (0x5002#16).extractLsb' 0 8 := by
  decide

theorem witness_StepPerformsPresentedWord :
    (State.reset.withFetchWord 16 0x3007).agenda = .present 0x3007#16 :: [] ∧
      decode 0x3007#16 = .ok (.setclient 7#8) ∧ Instr.wellFormed (.setclient 7#8) = true := by
  decide

theorem witness_WithFetchWordPresentsTheWord : decode 0x5001#16 = .ok (.ret .more) := by decide

theorem witness_NothingPresentedNothingChanges : State.reset.agenda = [] := rfl

/-- The environment just before E-FIRE (95_test_vectors.md 2.8). -/
def firing : State :=
  { at4 0 0 none .idle 0x5A with env := ⟨true, true, true, true, false⟩ }

theorem witness_EnvironmentMoves_fire :
    firing.env.ctlPend = true ∧ firing.env.ctlEn = true ∧ firing.seq = .idle := by decide

theorem witness_EnvironmentMoves_pend : firing.env.evt = true ∧ firing.env.inten = true ∧ firing.env.run = false := by
  decide

theorem witness_EnvironmentMoves_quiet :
    quietEnv.run = false ∧ quietEnv.evt = false ∧ quietEnv.ctlPend = false ∧ (armedEnv quietEnv).run = true := by decide

theorem witness_IrqCollects_first : (at4 0 0 none .idle 0).seq = .idle ∧ (at4 0 0 none .idle 0).idx ≤ 3#3 := by decide

theorem witness_IrqCollects_last :
    (at4 3 0x345678 (some 7) .idle 0).seq = .idle ∧ (at4 3 0x345678 (some 7) .idle 0).idx ≤ 3#3 := by decide

/-- Vector I13. -/
theorem witness_IrqCalls : (at4 4 0x12345678 (some 7) .idle 0xAA).seq = .idle ∧
    (at4 4 0x12345678 (some 7) .idle 0xAA).idx = 4#3 ∧ (at4 4 0x12345678 (some 7) .idle 0xAA).client = some 7#8 := by
  decide

/-- Vector I16. -/
theorem witness_IrqWithoutClient : (at4 4 0x12345678 none .idle 0xAA).seq = .idle ∧
    (at4 4 0x12345678 none .idle 0xAA).idx = 4#3 ∧ (at4 4 0x12345678 none .idle 0xAA).client = none := by decide

/-- Vectors I17 and I19: the least and the greatest Invalid index. -/
theorem witness_IrqRecovers : (at4 5 0xDEADBEEF (some 1) .idle 0x55).seq = .idle ∧
    5#3 ≤ (at4 5 0xDEADBEEF (some 1) .idle 0x55).idx ∧ 5#3 ≤ (at4 7 0xFFFFFFFF (some 9) .idle 0xFF).idx := by decide

theorem witness_DrawYields : (at4 4 0 (some 7) .deliver 0).seq = .deliver ∧ (at4 4 0 (some 7) .deliver 0).idx = 4#3 ∧
    (at4 3 0 (some 7) .deliver 0).idx ≠ 4#3 ∧ (at4 5 0 (some 7) .deliver 0).idx ≠ 4#3 ∧
    (at4 4 0 (some 7) .idle 0).seq = .idle := by decide

theorem witness_Ret : (at4 0 0 (some 7) .deliver 0).seq = .deliver ∧ (at4 0 0 none .idle 0).seq = .idle := by decide

theorem witness_Get : (at4 2 0x5678 (some 1) .idle 0).seq = .idle ∧ (at4 4 0 (some 7) .deliver 0).seq = .deliver := by
  decide

theorem witness_Setclient : (at4 2 0x5678 (some 1) .idle 0).seq = .idle ∧ (at4 4 0 (some 7) .deliver 0).seq = .deliver := by
  decide

/-- The collecting, calling, recovering, drawing and returning operations all have next states, so every
statement about the next state of an operation has something to speak of. -/
theorem witness_operations_are_performed :
    (∃ t, exec .irq (at4 3 0x345678 none .idle 0x12) = .next t) ∧ (∃ t, exec .get (at4 0 0 none .idle 0) = .next t) ∧
      (∃ t, exec (.setclient 0) (at4 0 0 none .idle 0) = .next t) ∧
      (∃ t, exec .draw (at4 4 0 (some 7) .deliver 0) = .next t) ∧
      (∃ t, exec (.ret .done) (at4 4 0 (some 7) .deliver 0) = .next t) ∧
      (∃ t, exec (.ret .more) (at4 4 0 (some 7) .deliver 0) = .next t) :=
  ⟨⟨_, rfl⟩, ⟨_, rfl⟩, ⟨_, rfl⟩, ⟨_, rfl⟩, ⟨_, rfl⟩, ⟨_, rfl⟩⟩

/-- A move that writes `idx` and `acc`, and one that does not. -/
theorem witness_OnlyInterruptContextWritesTheGenerationState :
    ∃ t, takeMove .fire firing = .next t ∧ t.idx ≠ firing.idx := by
  exact ⟨_, rfl, by decide⟩

theorem witness_OneClassHoldsAndReadyAloneYields :
    ∃ t, exec .draw (at4 4 0x12345678 (some 7) .deliver 0) = .next t ∧
      t.trace = (at4 4 0x12345678 (some 7) .deliver 0).trace ++ [.yield (some 0x12345678)] :=
  ⟨_, rfl, rfl⟩

theorem witness_OnlyADrawDeliversAndClears :
    (∃ t, takeMove (.present 0x4000#16) (at4 4 0x12345678 (some 7) .deliver 0) = .next t ∧ t.idx = 0#3 ∧
      t.trace = [] ++ [.yield (some 0x12345678)]) ∧
    (∃ t, takeMove (.present 0x1000#16) (at4 5 0xDEADBEEF (some 1) .idle 0) = .next t ∧ t.acc = 0#32) :=
  ⟨⟨_, rfl, rfl, rfl⟩, ⟨_, rfl, rfl⟩⟩

theorem witness_GatesMove :
    (operationOf (.present 0x1000#16) = some .irq ∧ rearms .irq (at4 4 0 none .idle 0) = false ∧
      ∃ t, takeMove (.present 0x1000#16) (at4 4 0 none .idle 0) = .next t) ∧
    (operationOf .fire = some .irq ∧ rearms .irq firing = true ∧ ∃ t, takeMove .fire firing = .next t) ∧
    (operationOf (.present 0x3001#16) = some (.setclient 1#8) ∧ rearms (.setclient 1#8) firing = false ∧
      ∃ t, takeMove (.present 0x3001#16) firing = .next t) ∧
    (operationOf .pend = none ∧ ∃ t, takeMove .pend firing = .next t) :=
  ⟨⟨rfl, rfl, _, rfl⟩, ⟨rfl, rfl, _, rfl⟩, ⟨rfl, rfl, _, rfl⟩, ⟨rfl, _, rfl⟩⟩

theorem witness_RegistrationChanges :
    ∃ t, takeMove (.present 0x3001#16) firing = .next t ∧ t.client ≠ firing.client :=
  ⟨_, rfl, by decide⟩

/-- The middle of a word: two bytes collected, the third to come by E-FIRE. -/
def midWord : State :=
  { at4 2 0x5678 (some 1) .idle 0x34 with
    env := ⟨true, true, true, true, false⟩
    trace := [.rd .value 0x78, .rd .value 0x56] ++ armTrace ++ armTrace ++ armTrace
    agenda := [.fire] }

theorem witness_Collected : Collected midWord ∧ ∃ t, step midWord = .next t := by
  refine ⟨⟨by decide, fun p hp hle => ?_⟩, _, rfl⟩
  have h : p = 2 ∨ p = 3 := by
    have : 2 ≤ p := hle
    omega
  rcases h with rfl | rfl <;> decide

theorem witness_DeliveryMasked :
    let s := { at4 4 0x12345678 (some 7) .deliver 0 with trace := [.cb 7], agenda := [.present 0x5001#16] }
    DeliveryMasked s ∧ s.seq = .deliver ∧ ∃ t, step s = .next t := by
  refine ⟨fun _ => ?_, rfl, _, rfl⟩
  decide

theorem witness_CalledOnlyIfRegistered :
    let s := { at4 4 0x12345678 none .idle 0 with trace := [.rd .value 0x12], agenda := [.present 0x1000#16] }
    CalledOnlyIfRegistered s ∧ s.client = none ∧ ∃ t, step s = .next t := by
  refine ⟨fun _ => ?_, rfl, _, rfl⟩
  decide

theorem witness_WordsTrue : WordsTrue midWord ∧ ∃ t, step midWord = .next t :=
  ⟨⟨rfl, by decide, rfl, rfl, rfl⟩, _, rfl⟩

theorem witness_ClosedAccount : ClosedAccount midWord ∧ ClosedInv midWord ∧ ∃ t, step midWord = .next t := by
  refine ⟨by decide, ⟨rfl, by decide, by decide, by decide, by decide⟩, _, rfl⟩

/-- A value with a high bit set is outside the closed account, settled or still to be settled. -/
theorem test_closedAccount_refuses_256 :
    ¬ ClosedAccount { midWord with valueIn := some 0x100 } ∧
      ¬ ClosedAccount { midWord with agenda := [.supply 0x100] } := by
  decide

/-- A read of the closed account, of a settled byte and of a free one. -/
theorem witness_ClosedReads :
    (∃ t, step midWord = .next t ∧ .rd .value 0x34#32 ∈ t.trace) ∧
      ClosedAccount { midWord with valueIn := none } ∧
      ∃ t, step { midWord with valueIn := none } = .next t ∧
        .rd .value ((Config.freeValue 0).setWidth 32) ∈ t.trace := by
  refine ⟨⟨_, rfl, ?_⟩, by decide, _, rfl, ?_⟩
  · exact List.mem_append_left _ (List.mem_append_left _ (List.mem_append_left _ (List.mem_append_left _
      (List.mem_append_right _ List.mem_cons_self))))
  · exact List.mem_append_left _ (List.mem_append_left _ (List.mem_append_left _ (List.mem_append_left _
      (List.mem_append_right _ List.mem_cons_self))))

theorem witness_AReadTakes : (at4 0 0 none .idle 0x5A).seq = .idle ∧ (at4 0 0 none .idle 0x5A).valueIn = some 0x5A#32 ∧
    State.reset.seq = .idle ∧ State.reset.valueIn = none :=
  ⟨rfl, rfl, rfl, rfl⟩

theorem witness_IntenIsNeverAccessed :
    ∃ t, takeMove (.present 0x2000#16) (at4 0 0 none .idle 0) = .next t ∧
      t.trace = (at4 0 0 none .idle 0).trace ++ armTrace :=
  ⟨_, rfl, rfl⟩

theorem witness_ClosedGates :
    let s := { at4 0 0 (some 1) .idle 0 with agenda := [.present 0x3002#16] }
    ClosedAccount s ∧ s.env.ctlEn = false ∧ ∃ t, step s = .next t :=
  ⟨by decide, rfl, _, rfl⟩

/-- Behind closed gates a GET starts generation and opens them. -/
theorem witness_ClosedGates_start :
    let s := { at4 0 0 (some 1) .idle 0 with agenda := [.present 0x2000#16] }
    ClosedAccount s ∧ s.env.ctlEn = false ∧ ∃ t, step s = .next t ∧ t.env.ctlEn = true :=
  ⟨by decide, rfl, _, rfl, rfl⟩

theorem witness_FourSamples :
    let s := { at4 0 0 none .idle 0 with
      agenda := [.supply 0x78#32, .present 0x1000#16, .supply 0x56#32, .present 0x1000#16, .supply 0x34#32,
        .present 0x1000#16, .supply 0x12#32, .present 0x1000#16] }
    s.idx = 0#3 ∧ s.acc = 0#32 ∧ s.seq = .idle :=
  ⟨rfl, rfl, rfl⟩

theorem witness_FifthInvocation :
    let s := { at4 0 0 (some 1) .idle 0 with agenda := List.replicate 5 (.present 0x1000#16) }
    s.idx = 0#3 ∧ s.seq = .idle ∧ s.client = some 1#8 ∧ s.agenda = List.replicate 5 (.present 0x1000#16) :=
  ⟨rfl, rfl, rfl, rfl⟩

theorem witness_DeliveryNetEffect :
    let s := { at4 4 0x12345678 (some 7) .idle 0 with
      agenda := [.present 0x1000#16, .present 0x4000#16, .present 0x4000#16, .present 0x5001#16] }
    s.idx = 4#3 ∧ s.client = some 7#8 ∧ s.seq = .idle ∧
      s.agenda = .present 0x1000#16 :: (List.replicate 2 (.present 0x4000#16) ++ [.present (encode (.ret .more))]) := by
  decide

/-- No draw and Done: 70_reset_and_hazards.md R167. -/
theorem witness_DeliveryNetEffect_noDraw :
    let s := { at4 4 0x12345678 (some 7) .idle 0 with agenda := [.present 0x1000#16, .present 0x5000#16] }
    s.idx = 4#3 ∧ s.client = some 7#8 ∧ s.seq = .idle ∧
      s.agenda = .present 0x1000#16 :: (List.replicate 0 (.present 0x4000#16) ++ [.present (encode (.ret .done))]) := by
  decide

/-- One draw and Done, as in 95_test_vectors.md P1. -/
theorem witness_DeliveryNetEffect_done :
    let s := { at4 4 0x12345678 (some 1) .idle 0xAA with
      agenda := [.present 0x1000#16, .present 0x4000#16, .present 0x5000#16] }
    s.idx = 4#3 ∧ s.client = some 1#8 ∧ s.seq = .idle ∧
      s.agenda = .present 0x1000#16 :: (List.replicate 1 (.present 0x4000#16) ++ [.present (encode (.ret .done))]) := by
  decide

theorem witness_RepeatedGets :
    let s := { at4 2 0x5678 none .idle 0 with agenda := [.present 0x2000#16, .present 0x2000#16] }
    s.seq = .idle ∧ s.agenda = List.replicate 2 (.present 0x2000#16) := by
  decide

theorem witness_StaleWord :
    let s := { at4 4 0xDEADBEEF none .idle 0x11 with
      agenda := [.present 0x1000#16, .present 0x3002#16, .present 0x2000#16, .present 0x1000#16, .present 0x4000#16] }
    s.idx = 4#3 ∧ s.client = none ∧ s.seq = .idle ∧ s.noClientReset = false ∧
      s.agenda = [.present 0x1000#16, .present (encode (.setclient 2)), .present 0x2000#16, .present 0x1000#16,
        .present 0x4000#16] := by
  decide

theorem witness_MoreWithoutADraw :
    let s := { at4 4 0x11223344 (some 9) .deliver 0x02 with agenda := [.present 0x5001#16, .present 0x1000#16] }
    s.idx = 4#3 ∧ s.client = some 9#8 ∧ s.seq = .deliver ∧ s.agenda = [.present 0x5001#16, .present 0x1000#16] := by
  decide

/-- Vector I10 beside a value within the peripheral's contract. -/
theorem witness_HighBits : (at4 1 0x11 none .idle 0).seq = .idle ∧
    (0xABCDEF22#32).extractLsb' 0 8 = (0x00000022#32).extractLsb' 0 8 := by decide

theorem witness_Carriers : carrierOf 0 (.cb 7) = carrierOf 0 (.cb 7) := rfl

/-- The end of 95_test_vectors.md P1: the event flag is set, and the run is finished. -/
def endOfP1 : State :=
  { at4 0 0 (some 1) .idle 0xAA with env := ⟨true, false, false, false, false⟩ }

/-- Finished also with a value still to be settled; not finished with a GET still presented, nor armed. -/
theorem witness_Finished :
    finished endOfP1 = true ∧ finished { endOfP1 with agenda := [.supply 1] } = true ∧
      quiescent { endOfP1 with agenda := [.present 0x2000#16] } = false ∧
      finished { endOfP1 with agenda := [.present 0x2000#16] } = false ∧
      quiescent { endOfP1 with env := armedEnv quietEnv, agenda := [.sample] } = true ∧
      finished { endOfP1 with env := armedEnv quietEnv, agenda := [.sample] } = false := by
  decide

theorem witness_AFinishedRun :
    finished { endOfP1 with agenda := [.supply 1] } = true ∧
      ∃ t, step { endOfP1 with agenda := [.supply 1] } = .next t :=
  ⟨by decide, _, rfl⟩

/-- The moves of a fair run of a block armed with a finished word and no consumer: one sample, one
pending flag, one interrupt, and nothing after it. -/
def fairMoves : Nat → Option Move
  | 0 => some .sample
  | 1 => some .pend
  | 2 => some .fire
  | _ => none

/-- The states of that run. -/
def fairStates : Nat → State
  | 0 => { at4 4 0xDEADBEEF none .idle 0x11 with env := ⟨false, true, true, false, true⟩ }
  | 1 => { at4 4 0xDEADBEEF none .idle 0x11 with env := ⟨true, true, true, false, false⟩ }
  | 2 => { at4 4 0xDEADBEEF none .idle 0x11 with env := ⟨true, true, true, true, false⟩ }
  | _ => { at4 4 0xDEADBEEF none .idle 0x11 with
      env := ⟨true, false, false, false, false⟩
      trace := maskTrace ++ [.rd .value 0x11]
      valueIn := none }

theorem witness_fairStates_isRun : IsRun fairMoves fairStates := by
  intro k
  match k with
  | 0 => rfl
  | 1 => rfl
  | 2 => rfl
  | _ + 3 => rfl

theorem witness_fairStates_fair : envFair fairMoves fairStates := by
  intro m hm n h
  have h3 := h (n + 3) (by omega)
  have hs : fairStates (n + 3) = fairStates 3 := rfl
  rw [hs] at h3
  simp only [envMoves, List.mem_cons, List.not_mem_nil, or_false] at hm
  rcases hm with rfl | rfl | rfl <;> exact absurd h3 (by decide)

theorem witness_fairStates_armed :
    (∀ k m, fairMoves k = some m → operationOf m = none ∨ m = .fire) ∧ (fairStates 0).seq = .idle ∧
      (fairStates 0).env.run = true ∧ (fairStates 0).env.inten = true ∧ (fairStates 0).env.ctlEn = true := by
  refine ⟨fun k m h => ?_, rfl, rfl, rfl, rfl⟩
  match k with
  | 0 => cases h; exact .inl rfl
  | 1 => cases h; exact .inl rfl
  | 2 => cases h; exact .inr rfl
  | _ + 3 => cases h

end Sys2Proof.Tests
end

section
/-! The fields after a start of generation and after the handler's entry, and what an operation is where
the sequencer admits it. -/

namespace Sys2Proof.Machine

open Sys2Proof.Safety

@[simp] theorem startRng_idx (s : State) : (startRng s).idx = s.idx := rfl
@[simp] theorem startRng_acc (s : State) : (startRng s).acc = s.acc := rfl
@[simp] theorem startRng_client (s : State) : (startRng s).client = s.client := rfl
@[simp] theorem startRng_seq (s : State) : (startRng s).seq = s.seq := rfl
@[simp] theorem startRng_env (s : State) : (startRng s).env = armedEnv s.env := by rw [startRng_eq]
@[simp] theorem startRng_trace (s : State) : (startRng s).trace = s.trace ++ armTrace := by rw [startRng_eq]
@[simp] theorem startRng_agenda (s : State) : (startRng s).agenda = s.agenda := rfl
@[simp] theorem startRng_valueIn (s : State) : (startRng s).valueIn = s.valueIn := rfl
@[simp] theorem startRng_freeReads (s : State) : (startRng s).freeReads = s.freeReads := rfl
@[simp] theorem startRng_noClientReset (s : State) : (startRng s).noClientReset = s.noClientReset := rfl

@[simp] theorem handlerEntry_idx (s : State) : (handlerEntry s).idx = s.idx := by simp [handlerEntry_eq]
@[simp] theorem handlerEntry_acc (s : State) : (handlerEntry s).acc = s.acc := by simp [handlerEntry_eq]
@[simp] theorem handlerEntry_client (s : State) : (handlerEntry s).client = s.client := by
  simp [handlerEntry_eq]
@[simp] theorem handlerEntry_seq (s : State) : (handlerEntry s).seq = s.seq := by simp [handlerEntry_eq]
@[simp] theorem handlerEntry_env (s : State) : (handlerEntry s).env = maskedEnv s.env := by
  rw [handlerEntry_eq]
@[simp] theorem handlerEntry_trace (s : State) :
    (handlerEntry s).trace = s.trace ++ maskTrace ++ [.rd .value (nextValue s)] := by
  rw [handlerEntry_eq]
@[simp] theorem handlerEntry_agenda (s : State) : (handlerEntry s).agenda = s.agenda := by
  simp [handlerEntry_eq]
@[simp] theorem handlerEntry_valueIn (s : State) : (handlerEntry s).valueIn = none := by
  simp [handlerEntry_eq]
@[simp] theorem handlerEntry_noClientReset (s : State) :
    (handlerEntry s).noClientReset = s.noClientReset := by
  simp [handlerEntry_eq]

/-- An answer to a draw is one output event. -/
@[simp] theorem yieldAnswer_eq (r : Option Word) (s : State) : yieldAnswer r s = emit (.yield r) s := rfl

/-- An answer to a draw has no effect on the environment (60_exceptions.md R143). -/
@[simp] theorem envAfter_yield (e : EnvState) (r : Option Word) : envAfter e (.yield r) = e := rfl

theorem exec_irq_of_idle {s : State} (h : s.seq = .idle) :
    exec .irq s = .next (irqDispatch (sampleOf (nextValue s)) (handlerEntry s)) := by
  simp [exec, execIrq, h]

theorem exec_get_of_idle {s : State} (h : s.seq = .idle) : exec .get s = .next (startRng s) := by
  simp [exec, execGet, h]

theorem exec_setclient_of_idle {s : State} (cid : ClientId) (h : s.seq = .idle) :
    exec (.setclient cid) s = .next (registerClient cid s) := by
  simp [exec, execSetclient, h]

theorem exec_draw_of_deliver {s : State} (h : s.seq = .deliver) : exec .draw s = .next (drawOnce s) := by
  simp [exec, execDraw, h]

theorem exec_ret_of_deliver {s : State} (k : Cont) (h : s.seq = .deliver) :
    exec (.ret k) s = .next (leaveCallback (afterCallback k s)) := by
  simp [exec, execRet, h]

/-- Every way in which the dispatch of an IRQ ends (40_interrupt_handler.md R82, R84, R85, R86). -/
theorem irqDispatch_cases (b : Byte) (s : State) :
    (s.idx ≤ 3#3 ∧ irqDispatch b s = startRng (accumulate b s)) ∨
    (∃ c, s.idx = 4#3 ∧ s.client = some c ∧ irqDispatch b s = enterCallback c s) ∨
    (s.idx = 4#3 ∧ s.client = none ∧ s.noClientReset = false ∧ irqDispatch b s = s) ∨
    ((s.idx = 4#3 ∧ s.client = none ∧ s.noClientReset = true ∨ 5#3 ≤ s.idx) ∧
      irqDispatch b s = clearGeneration s) := by
  rcases index_classes s.idx with hlow | hready | hhigh
  · exact .inl ⟨hlow, irqDispatch_collecting b hlow⟩
  · rw [irqDispatch_ready b hready]
    cases hc : s.client with
    | some c => exact .inr (.inl ⟨c, hready, rfl, irqReady_some hc⟩)
    | none =>
      rw [irqReady_none hc]
      cases hn : s.noClientReset with
      | false => exact .inr (.inr (.inl ⟨hready, rfl, rfl, rfl⟩))
      | true => exact .inr (.inr (.inr ⟨.inl ⟨hready, rfl, rfl⟩, rfl⟩))
  · exact .inr (.inr (.inr ⟨.inr hhigh, irqDispatch_invalid b hhigh⟩))

@[simp] theorem irqDispatch_client (b : Byte) (s : State) : (irqDispatch b s).client = s.client := by
  rcases irqDispatch_cases b s with ⟨_, h⟩ | ⟨c, _, _, h⟩ | ⟨_, _, _, h⟩ | ⟨_, h⟩ <;> simp [h]

@[simp] theorem irqDispatch_agenda (b : Byte) (s : State) : (irqDispatch b s).agenda = s.agenda := by
  rcases irqDispatch_cases b s with ⟨_, h⟩ | ⟨c, _, _, h⟩ | ⟨_, _, _, h⟩ | ⟨_, h⟩ <;> simp [h]

@[simp] theorem irqDispatch_noClientReset (b : Byte) (s : State) :
    (irqDispatch b s).noClientReset = s.noClientReset := by
  rcases irqDispatch_cases b s with ⟨_, h⟩ | ⟨c, _, _, h⟩ | ⟨_, _, _, h⟩ | ⟨_, h⟩ <;> simp [h]

/-- Every way in which a draw ends (41_delivery_iterator.md R100). -/
theorem drawOnce_cases (s : State) :
    (s.idx = 4#3 ∧ drawOnce s = emit (.yield (some s.acc)) (clearGeneration s)) ∨
    (s.idx ≠ 4#3 ∧ drawOnce s = emit (.yield none) s) := by
  by_cases h : s.idx = 4#3
  · exact .inl ⟨h, drawOnce_ready h⟩
  · exact .inr ⟨h, drawOnce_empty h⟩

@[simp] theorem drawOnce_client (s : State) : (drawOnce s).client = s.client := by
  rcases drawOnce_cases s with ⟨_, h⟩ | ⟨_, h⟩ <;> simp [h]

@[simp] theorem drawOnce_seq (s : State) : (drawOnce s).seq = s.seq := by
  rcases drawOnce_cases s with ⟨_, h⟩ | ⟨_, h⟩ <;> simp [h]

@[simp] theorem drawOnce_env (s : State) : (drawOnce s).env = s.env := by
  rcases drawOnce_cases s with ⟨_, h⟩ | ⟨_, h⟩ <;> simp [h]

@[simp] theorem drawOnce_agenda (s : State) : (drawOnce s).agenda = s.agenda := by
  rcases drawOnce_cases s with ⟨_, h⟩ | ⟨_, h⟩ <;> simp [h]

@[simp] theorem drawOnce_valueIn (s : State) : (drawOnce s).valueIn = s.valueIn := by
  rcases drawOnce_cases s with ⟨_, h⟩ | ⟨_, h⟩ <;> simp [h]

@[simp] theorem drawOnce_freeReads (s : State) : (drawOnce s).freeReads = s.freeReads := by
  rcases drawOnce_cases s with ⟨_, h⟩ | ⟨_, h⟩ <;> simp [h]

@[simp] theorem drawOnce_noClientReset (s : State) : (drawOnce s).noClientReset = s.noClientReset := by
  rcases drawOnce_cases s with ⟨_, h⟩ | ⟨_, h⟩ <;> simp [h]

theorem blockOf_eq_iff {s t : State} :
    blockOf t = blockOf s ↔ t.idx = s.idx ∧ t.acc = s.acc ∧ t.client = s.client ∧ t.seq = s.seq := by
  simp [blockOf]

/-- The handler's entry writes no register of the block (40_interrupt_handler.md R83). -/
theorem blockOf_handlerEntry (s : State) : blockOf (handlerEntry s) = blockOf s := by
  simp [blockOf]

/-- A performed move either performs its operation or, having none, leaves the block and its trace alone. -/
theorem takeMove_next_operation {m : Move} {s t : State} (h : takeMove m s = .next t) :
    (∃ i, operationOf m = some i ∧ exec i s = .next t) ∨
    (operationOf m = none ∧ blockOf t = blockOf s ∧ t.trace = s.trace) := by
  rcases takeMove_next_cases h with ⟨w, i, rfl, hd, hx⟩ | ⟨rfl, _, _, _, hx⟩ | ⟨v, rfl, rfl⟩ |
    ⟨rfl, _, rfl⟩ | ⟨rfl, _, _, rfl⟩
  · exact .inl ⟨i, by rw [operationOf, hd]; rfl, hx⟩
  · exact .inl ⟨.irq, rfl, hx⟩
  · exact .inr ⟨rfl, rfl, rfl⟩
  · exact .inr ⟨rfl, rfl, rfl⟩
  · exact .inr ⟨rfl, rfl, rfl⟩

/-- A step either performs an operation or leaves the block and its trace alone. -/
theorem step_next_operation {s t : State} (h : step s = .next t) :
    (∃ i rest, exec i { s with agenda := rest } = .next t) ∨
    (blockOf t = blockOf s ∧ t.trace = s.trace) := by
  rcases step_next_cases h with ⟨_, rfl⟩ | ⟨m, rest, _, hm⟩
  · exact .inr ⟨rfl, rfl⟩
  · rcases takeMove_next_operation hm with ⟨i, _, hx⟩ | ⟨_, hblock, htrace⟩
    · exact .inl ⟨i, rest, hx⟩
    · exact .inr ⟨hblock, htrace⟩

end Sys2Proof.Machine
end

section
/-! The reachable-state invariant of 10_state.md R25: what a sample placed at one byte position leaves
in the positions above it, and each write of the generation state. -/

namespace Sys2Proof.Safety

open Sys2Proof.Machine

theorem byteAt_zero (p : Nat) : byteAt 0#32 p = 0#8 := by
  simp [byteAt]

theorem byteAt_or (v w : Word) (p : Nat) : byteAt (v ||| w) p = byteAt v p ||| byteAt w p := by
  simp [byteAt, BitVec.extractLsb'_or]

/-- A sample placed at one byte position reaches no position above it. -/
theorem byteAt_placeByte_above (b : Byte) {e : Index} {p : Nat} (h : e.toNat < p) :
    byteAt (placeByte b e) p = 0#8 := by
  apply BitVec.eq_of_getLsbD_eq
  intro k hk
  have habove : b.getLsbD (8 * p + k - 8 * e.toNat) = false := BitVec.getLsbD_of_ge _ _ (by omega)
  simp [byteAt, placeByte, habove]

theorem collected_of_blockOf_eq {s t : State} (h : blockOf t = blockOf s) (hs : Collected s) :
    Collected t := by
  obtain ⟨hidx, hacc, -, -⟩ := blockOf_eq_iff.mp h
  simpa only [Collected, hidx, hacc] using hs

theorem collected_clearGeneration (s : State) : Collected (clearGeneration s) :=
  ⟨by simp, fun p _ _ => byteAt_zero p⟩

/-- One byte collected: position `idx` is filled and the ones above it stay zero (40_interrupt_handler.md R82). -/
theorem collected_accumulate (b : Byte) {s : State} (hlow : s.idx ≤ 3#3) (hs : Collected s) :
    Collected (accumulate b s) := by
  have hnat : s.idx.toNat ≤ 3 := hlow
  have hnext : (s.idx + 1#3).toNat = s.idx.toNat + 1 := by
    rw [BitVec.toNat_add]
    exact Nat.mod_eq_of_lt (show s.idx.toNat + 1 < 8 by omega)
  obtain ⟨-, hzero⟩ := hs
  refine ⟨?_, fun p hp hle => ?_⟩
  · rw [accumulate_idx, BitVec.le_def, hnext]
    exact Nat.succ_le_succ hnat
  · rw [accumulate_idx, hnext] at hle
    rw [accumulate_acc, byteAt_or, hzero p hp (by omega), byteAt_placeByte_above b (by omega)]
    rfl

theorem collected_irqDispatch (b : Byte) {s : State} (hs : Collected s) :
    Collected (irqDispatch b s) := by
  rcases irqDispatch_cases b s with ⟨hlow, h⟩ | ⟨c, _, _, h⟩ | ⟨_, _, _, h⟩ | ⟨_, h⟩ <;> rw [h]
  · exact collected_accumulate b hlow hs
  · exact hs
  · exact hs
  · exact collected_clearGeneration s

theorem collected_drawOnce {s : State} (hs : Collected s) : Collected (drawOnce s) := by
  rcases drawOnce_cases s with ⟨_, h⟩ | ⟨_, h⟩ <;> rw [h]
  · exact collected_clearGeneration s
  · exact hs

theorem collected_exec {i : Instr} {s t : State} (h : exec i s = .next t) (hs : Collected s) :
    Collected t := by
  rcases exec_next_cases h with ⟨_, _, rfl⟩ | ⟨_, _, rfl⟩ | ⟨cid, _, _, rfl⟩ | ⟨_, _, rfl⟩ |
    ⟨_, _, rfl⟩ | ⟨_, _, rfl⟩
  · exact collected_irqDispatch _ (collected_of_blockOf_eq (blockOf_handlerEntry s) hs)
  · exact hs
  · exact hs
  · exact collected_drawOnce hs
  · exact hs
  · exact hs

end Sys2Proof.Safety
end

section
/-! The state classes as ranges of the index (10_state.md R24). -/

namespace Sys2Proof.Machine

theorem collecting_iff (s : State) : collecting s = true ↔ s.idx.toNat ≤ 3 := by
  simp [collecting, BitVec.le_def]

theorem ready_iff (s : State) : ready s = true ↔ s.idx.toNat = 4 := by
  simp [ready, ← BitVec.toNat_inj]

theorem invalid_iff (s : State) : invalid s = true ↔ 5 ≤ s.idx.toNat := by
  simp [invalid, BitVec.le_def]

theorem exactly_one_class (s : State) :
    (collecting s = true ∧ ready s = false ∧ invalid s = false) ∨
    (collecting s = false ∧ ready s = true ∧ invalid s = false) ∨
    (collecting s = false ∧ ready s = false ∧ invalid s = true) := by
  simp only [← Bool.not_eq_true, collecting_iff, ready_iff, invalid_iff]
  omega

end Sys2Proof.Machine
end

section
/-! What an operation outputs. -/

namespace Sys2Proof.Machine

open Sys2Proof.Safety

/-- The events an operation performed in `s` may output: the sequences of 42_control_surface.md R112 and
R114, the read of R83, the call of R84 and the answers of 41_delivery_iterator.md R100. -/
inductive Outputs (s : State) : Instr → Event → Prop where
  | mask {e : Event} (h : e ∈ maskTrace) : Outputs s .irq e
  | read : Outputs s .irq (.rd .value (nextValue s))
  | arm {i : Instr} {e : Event} (h : e ∈ armTrace) : Outputs s i e
  | call {c : ClientId} (hready : s.idx = 4#3) (hclient : s.client = some c) : Outputs s .irq (.cb c)
  | word (hready : s.idx = 4#3) : Outputs s .draw (.yield (some s.acc))
  | noWord (hready : s.idx ≠ 4#3) : Outputs s .draw (.yield none)

theorem irqDispatch_outputs (b : Byte) (s : State) :
    ∃ new, (irqDispatch b (handlerEntry s)).trace = (handlerEntry s).trace ++ new ∧
      ∀ e ∈ new, Outputs s .irq e := by
  rcases irqDispatch_cases b (handlerEntry s) with ⟨_, h⟩ | ⟨c, hready, hclient, h⟩ | ⟨_, _, _, h⟩ | ⟨_, h⟩
    <;> rw [h]
  · exact ⟨armTrace, by simp, fun _ he => .arm he⟩
  · refine ⟨[.cb c], by simp, fun e he => ?_⟩
    obtain rfl := List.mem_singleton.mp he
    exact .call (by simpa using hready) (by simpa using hclient)
  · exact ⟨[], by simp, by simp⟩
  · exact ⟨[], by simp, by simp⟩

theorem drawOnce_outputs (s : State) :
    ∃ new, (drawOnce s).trace = s.trace ++ new ∧ ∀ e ∈ new, Outputs s .draw e := by
  rcases drawOnce_cases s with ⟨hready, h⟩ | ⟨hready, h⟩ <;> rw [h]
  · exact ⟨[.yield (some s.acc)], by simp, fun e he => List.mem_singleton.mp he ▸ .word hready⟩
  · exact ⟨[.yield none], by simp, fun e he => List.mem_singleton.mp he ▸ .noWord hready⟩

/-- A performed operation only adds to the trace, and only its own outputs. -/
theorem exec_outputs {i : Instr} {s t : State} (h : exec i s = .next t) :
    ∃ new, t.trace = s.trace ++ new ∧ ∀ e ∈ new, Outputs s i e := by
  rcases exec_next_cases h with ⟨rfl, _, rfl⟩ | ⟨rfl, _, rfl⟩ | ⟨cid, rfl, _, rfl⟩ | ⟨rfl, _, rfl⟩ |
    ⟨rfl, _, rfl⟩ | ⟨rfl, _, rfl⟩
  · obtain ⟨new, htrace, hnew⟩ := irqDispatch_outputs (sampleOf (nextValue s)) s
    refine ⟨maskTrace ++ [.rd .value (nextValue s)] ++ new, by simp [htrace], fun e he => ?_⟩
    rcases List.mem_append.mp he with hentry | hrest
    · rcases List.mem_append.mp hentry with hmask | hread
      · exact .mask hmask
      · exact List.mem_singleton.mp hread ▸ .read
    · exact hnew e hrest
  · exact ⟨armTrace, by simp, fun _ he => .arm he⟩
  · exact ⟨[], by simp, by simp⟩
  · exact drawOnce_outputs s
  · exact ⟨armTrace, by simp, fun _ he => .arm he⟩
  · exact ⟨[], by simp, by simp⟩

/-- A word is yielded by a draw in the Ready class only, and it is the accumulator. -/
theorem outputs_yield_some {i : Instr} {s : State} {w : Word} (h : Outputs s i (.yield (some w))) :
    i = .draw ∧ s.idx = 4#3 ∧ w = s.acc := by
  cases h with
  | mask h => simp [maskTrace] at h
  | arm h => simp [armTrace] at h
  | word hready => exact ⟨rfl, hready, rfl⟩

theorem maskTrace_calls_nobody : ∀ e ∈ maskTrace, isCallback e = false := by
  simp [maskTrace, isCallback]

theorem armTrace_calls_nobody : ∀ e ∈ armTrace, isCallback e = false := by
  simp [armTrace, isCallback]

/-- Nobody but the registered client is called. -/
theorem outputs_callback {i : Instr} {s : State} {e : Event} (h : Outputs s i e)
    (hcall : isCallback e = true) : ∃ c, e = .cb c ∧ s.client = some c := by
  cases h with
  | mask h => exact absurd hcall (by simp [maskTrace_calls_nobody e h])
  | arm h => exact absurd hcall (by simp [armTrace_calls_nobody e h])
  | call _ hclient => exact ⟨_, rfl, hclient⟩
  | read => cases hcall
  | word => cases hcall
  | noWord => cases hcall

/-- An operation leaves the registration alone unless it is SETCLIENT (10_state.md R22). -/
theorem exec_client {i : Instr} {s t : State} (h : exec i s = .next t) :
    t.client = s.client ∨ ∃ cid, i = .setclient cid ∧ t.client = some cid := by
  rcases exec_next_cases h with ⟨_, _, rfl⟩ | ⟨_, _, rfl⟩ | ⟨cid, hi, _, rfl⟩ | ⟨_, _, rfl⟩ |
    ⟨_, _, rfl⟩ | ⟨_, _, rfl⟩
  · exact .inl (by simp)
  · exact .inl (by simp)
  · exact .inr ⟨cid, hi, rfl⟩
  · exact .inl (by simp)
  · exact .inl (by simp)
  · exact .inl (by simp)

/-- Once registered, a client stays registered or is replaced (10_state.md R22). -/
theorem client_ne_none_of_exec {i : Instr} {s t : State} (h : exec i s = .next t)
    (hs : s.client ≠ none) : t.client ≠ none := by
  rcases exec_client h with hkeep | ⟨cid, _, hset⟩
  · rwa [hkeep]
  · simp [hset]

end Sys2Proof.Machine
end

section
/-! The environment state is written and never read (10_state.md R29): every operation commutes with a
replacement of it, up to the environment it leaves. -/

namespace Sys2Proof.Machine

open Sys2Proof.Safety

/-- The state with another environment. -/
def withEnv (e : EnvState) (s : State) : State :=
  { s with env := e }

@[simp] theorem withEnv_idx (e : EnvState) (s : State) : (withEnv e s).idx = s.idx := rfl
@[simp] theorem withEnv_client (e : EnvState) (s : State) : (withEnv e s).client = s.client := rfl
@[simp] theorem withEnv_seq (e : EnvState) (s : State) : (withEnv e s).seq = s.seq := rfl
@[simp] theorem withEnv_noClientReset (e : EnvState) (s : State) :
    (withEnv e s).noClientReset = s.noClientReset := rfl
@[simp] theorem nextValue_withEnv (e : EnvState) (s : State) : nextValue (withEnv e s) = nextValue s := rfl

theorem startRng_withEnv (e : EnvState) (s : State) :
    startRng (withEnv e s) = withEnv (armedEnv e) (startRng s) := by
  rw [startRng_eq, startRng_eq]; rfl

theorem consumeValue_withEnv (e : EnvState) (s : State) :
    consumeValue (withEnv e s) = withEnv e (consumeValue s) := by
  cases h : s.valueIn with
  | some v => rw [consumeValue_of_some h, consumeValue_of_some (show (withEnv e s).valueIn = some v from h)]; rfl
  | none => rw [consumeValue_of_none h, consumeValue_of_none (show (withEnv e s).valueIn = none from h)]; rfl

theorem handlerEntry_withEnv (e : EnvState) (s : State) :
    handlerEntry (withEnv e s) = withEnv (maskedEnv e) (handlerEntry s) := by
  rw [handlerEntry_eq, handlerEntry_eq, consumeValue_withEnv]; rfl

theorem irqReady_withEnv (e : EnvState) (s : State) :
    irqReady (withEnv e s) = withEnv e (irqReady s) := by
  cases h : s.client with
  | some c => rw [irqReady_some h, irqReady_some (show (withEnv e s).client = some c from h)]; rfl
  | none =>
    rw [irqReady_none h, irqReady_none (show (withEnv e s).client = none from h), withEnv_noClientReset]
    split <;> rfl

theorem irqDispatch_withEnv (b : Byte) (e : EnvState) (s : State) :
    ∃ e', irqDispatch b (withEnv e s) = withEnv e' (irqDispatch b s) := by
  rcases index_classes s.idx with hlow | hready | hhigh
  · rw [irqDispatch_collecting b hlow, irqDispatch_collecting b (show (withEnv e s).idx ≤ 3#3 from hlow)]
    exact ⟨armedEnv e, startRng_withEnv e (accumulate b s)⟩
  · rw [irqDispatch_ready b hready, irqDispatch_ready b (show (withEnv e s).idx = 4#3 from hready)]
    exact ⟨e, irqReady_withEnv e s⟩
  · rw [irqDispatch_invalid b hhigh, irqDispatch_invalid b (show 5#3 ≤ (withEnv e s).idx from hhigh)]
    exact ⟨e, rfl⟩

theorem drawOnce_withEnv (e : EnvState) (s : State) : drawOnce (withEnv e s) = withEnv e (drawOnce s) := by
  by_cases h : s.idx = 4#3
  · rw [drawOnce_ready h, drawOnce_ready (show (withEnv e s).idx = 4#3 from h)]; rfl
  · rw [drawOnce_empty h, drawOnce_empty (show (withEnv e s).idx ≠ 4#3 from h)]; rfl

/-- From another environment an operation is performed alike, up to the environment it leaves. -/
theorem exec_withEnv {i : Instr} {s t : State} (e : EnvState) (h : exec i s = .next t) :
    ∃ e', exec i (withEnv e s) = .next (withEnv e' t) := by
  rcases exec_next_cases h with ⟨rfl, hq, rfl⟩ | ⟨rfl, hq, rfl⟩ | ⟨cid, rfl, hq, rfl⟩ | ⟨rfl, hq, rfl⟩ |
    ⟨rfl, hq, rfl⟩ | ⟨rfl, hq, rfl⟩
  · obtain ⟨e', he'⟩ := irqDispatch_withEnv (sampleOf (nextValue s)) (maskedEnv e) (handlerEntry s)
    exact ⟨e', by rw [exec_irq_of_idle (by simpa using hq), handlerEntry_withEnv, nextValue_withEnv, he']⟩
  · exact ⟨armedEnv e, by rw [exec_get_of_idle (by simpa using hq), startRng_withEnv]⟩
  · exact ⟨e, by rw [exec_setclient_of_idle cid (by simpa using hq)]; rfl⟩
  · exact ⟨e, by rw [exec_draw_of_deliver (by simpa using hq), drawOnce_withEnv]⟩
  · refine ⟨armedEnv e, ?_⟩
    rw [exec_ret_of_deliver .more (by simpa using hq), afterCallback, startRng_withEnv]; rfl
  · exact ⟨e, by rw [exec_ret_of_deliver .done (by simpa using hq)]; rfl⟩

end Sys2Proof.Machine
end

section
/-! The invariants at reset (10_state.md R25, R30). -/

namespace Sys2Proof.Safety

open Sys2Proof.Machine

theorem collected_reset : Collected State.reset :=
  ⟨by decide, fun p _ _ => byteAt_zero p⟩

theorem closedAccount_reset : ClosedAccount State.reset :=
  ⟨by simp [State.reset], rfl⟩

theorem closedInv_reset (h : State.reset.env = quietEnv) : ClosedInv State.reset := by
  unfold ClosedInv
  rw [h]
  decide

theorem deliveryMasked_reset : DeliveryMasked State.reset :=
  fun h => absurd h (by decide)

theorem calledOnlyIfRegistered_reset : CalledOnlyIfRegistered State.reset :=
  fun _ e he => absurd he (List.not_mem_nil (a := e))

theorem wordsTrue_reset : WordsTrue State.reset :=
  ⟨rfl, by decide, rfl, rfl, rfl⟩

end Sys2Proof.Safety
end

section
/-! The statements about the block's state (10_state.md). -/

namespace Sys2Proof.Proofs

open Sys2Proof.Machine Sys2Proof.Safety

/-- Settles O33: a byte is added at position `idx` only, and every other write of `idx` or `acc` clears both. -/
theorem stepKeepsTheCollectedInvariant : Obligations.StepKeepsTheCollectedInvariant := by
  intro s t hs h
  rcases step_next_operation h with ⟨i, rest, hx⟩ | ⟨hblock, _⟩
  · exact collected_exec hx hs
  · exact collected_of_blockOf_eq hblock hs

/-- Settles O21, operation by operation. -/
theorem operationsWriteOnlyTheirRegisters : Obligations.OperationsWriteOnlyTheirRegisters := by
  intro i s t h
  rcases exec_next_cases h with ⟨rfl, _, rfl⟩ | ⟨rfl, _, rfl⟩ | ⟨cid, rfl, _, rfl⟩ | ⟨rfl, _, rfl⟩ |
    ⟨rfl, _, rfl⟩ | ⟨rfl, _, rfl⟩ <;> simp

/-- Settles O23: the classes split the values of `idx`, and a yielded word is an output of a draw. -/
theorem oneClassHoldsAndReadyAloneYields : Obligations.OneClassHoldsAndReadyAloneYields := by
  intro s
  refine ⟨exactly_one_class s, collecting_iff s, ready_iff s, invalid_iff s,
    fun i t w new hx htrace hmem => ?_⟩
  obtain ⟨new', htrace', hout⟩ := exec_outputs hx
  obtain rfl : new = new' := List.append_cancel_left (htrace.symm.trans htrace')
  obtain ⟨hi, hready, hw⟩ := outputs_yield_some (hout _ hmem)
  exact ⟨hi, by simp [ready, hready], hw⟩

/-- Settles O29: of the operations SETCLIENT alone writes the registration, and no other move writes it. -/
theorem registrationChangesBySetclientOnly : Obligations.RegistrationChangesBySetclientOnly := by
  intro m s t h
  rcases takeMove_next_operation h with ⟨i, hop, hx⟩ | ⟨_, hblock, _⟩
  · refine ⟨fun hne => ?_, client_ne_none_of_exec hx⟩
    rcases exec_client hx with hkeep | ⟨cid, rfl, hset⟩
    · exact absurd hkeep hne
    · exact ⟨cid, hop, hset⟩
  · obtain ⟨-, -, hclient, -⟩ := blockOf_eq_iff.mp hblock
    exact ⟨fun hne => absurd hclient hne, fun hs => hclient ▸ hs⟩

/-- Settles O35: a new callback in the trace is to a registered client, who stays registered. -/
theorem stepKeepsCalledOnlyIfRegistered : Obligations.StepKeepsCalledOnlyIfRegistered := by
  intro s t hs h hnone e he
  rcases step_next_operation h with ⟨i, rest, hx⟩ | ⟨hblock, htrace⟩
  · have hbefore : s.client = none := by
      by_contra hsome
      exact client_ne_none_of_exec hx hsome hnone
    obtain ⟨new, htrace, hout⟩ := exec_outputs hx
    rw [htrace] at he
    rcases List.mem_append.mp he with hold | hnew
    · exact hs hbefore e hold
    · by_contra hcall
      obtain ⟨c, _, hclient⟩ := outputs_callback (hout e hnew) (by simpa using hcall)
      exact absurd (hclient.symm.trans hbefore) (by simp)
  · obtain ⟨-, -, hclient, -⟩ := blockOf_eq_iff.mp hblock
    exact hs (hclient ▸ hnone) e (htrace ▸ he)

/-- Settles O46: two runs of one operation differ in the environment only. -/
theorem theBlockNeverReadsTheEnvironmentState : Obligations.TheBlockNeverReadsTheEnvironmentState := by
  intro i s t e h
  obtain ⟨e', hx⟩ := exec_withEnv e h
  exact ⟨withEnv e' t, hx, rfl, rfl⟩

/-- Settles O32: `idx` and `acc` are zero, no callback is in progress, nothing is yet output, and the gates
of a quiet environment are closed. -/
theorem resetMeetsEveryInvariant : Obligations.ResetMeetsEveryInvariant :=
  ⟨collected_reset, deliveryMasked_reset, calledOnlyIfRegistered_reset,
    wordsTrue_reset, fun h => ⟨closedAccount_reset, closedInv_reset h⟩⟩

end Sys2Proof.Proofs
end

section
/-! The accesses of the block are those of 20_memory.md R47, and INTEN is not among them
(42_control_surface.md R117). -/

namespace Sys2Proof.Safety

open Sys2Proof.Machine

theorem maskTrace_allowed : ∀ e ∈ maskTrace, Allowed e := by
  simp [maskTrace, Allowed]

theorem armTrace_allowed : ∀ e ∈ armTrace, Allowed e := by
  simp [armTrace, Allowed]

theorem allowed_of_outputs {i : Instr} {s : State} {e : Event} (h : Outputs s i e) : Allowed e := by
  cases h with
  | mask h => exact maskTrace_allowed e h
  | read => rfl
  | arm h => exact armTrace_allowed e h
  | call => trivial
  | word => trivial
  | noWord => trivial

theorem ne_rd_inten_of_allowed {e : Event} (h : Allowed e) (v : Word) : e ≠ .rd .inten v := by
  rintro rfl
  cases h

theorem ne_wr_inten_of_allowed {e : Event} (h : Allowed e) (v : Word) : e ≠ .wr .inten v := by
  rintro rfl
  exact h

end Sys2Proof.Safety
end

section
/-! The VALUE read of an IRQ: where the value comes from, what it uses up, and what of it reaches a
register (20_memory.md R46). -/

namespace Sys2Proof.Machine

open Sys2Proof.Safety

@[simp] theorem handlerEntry_freeReads (s : State) :
    (handlerEntry s).freeReads = (consumeValue s).freeReads := by
  rw [handlerEntry_eq]

@[simp] theorem irqDispatch_valueIn (b : Byte) (s : State) : (irqDispatch b s).valueIn = s.valueIn := by
  rcases irqDispatch_cases b s with ⟨_, h⟩ | ⟨c, _, _, h⟩ | ⟨_, _, _, h⟩ | ⟨_, h⟩ <;> simp [h]

@[simp] theorem irqDispatch_freeReads (b : Byte) (s : State) :
    (irqDispatch b s).freeReads = s.freeReads := by
  rcases irqDispatch_cases b s with ⟨_, h⟩ | ⟨c, _, _, h⟩ | ⟨_, _, _, h⟩ | ⟨_, h⟩ <;> simp [h]

/-- An IRQ masks, then reads `nextValue`, and uses up of the supply what `consumeValue` does (R83). -/
theorem exec_irq_reads {s : State} (hq : s.seq = .idle) :
    ∃ (t : State) (rest : List Event), exec .irq s = .next t ∧
      t.trace = s.trace ++ maskTrace ++ [.rd .value (nextValue s)] ++ rest ∧
      t.valueIn = none ∧ t.freeReads = (consumeValue s).freeReads := by
  obtain ⟨rest, htrace, _⟩ := irqDispatch_outputs (sampleOf (nextValue s)) s
  exact ⟨_, rest, exec_irq_of_idle hq, by rw [htrace, handlerEntry_trace], by simp, by simp⟩

/-- The dispatch of an IRQ reads the sample, the block and `P_NOCLIENT_RESET`: states that agree on these
and on the environment agree on the block and the environment after it. -/
theorem irqDispatch_congr (b : Byte) {s t : State} (hblock : blockOf t = blockOf s)
    (henv : t.env = s.env) (hreset : t.noClientReset = s.noClientReset) :
    blockOf (irqDispatch b t) = blockOf (irqDispatch b s) ∧
      (irqDispatch b t).env = (irqDispatch b s).env := by
  obtain ⟨hidx, hacc, hclient, hseq⟩ := blockOf_eq_iff.mp hblock
  rcases irqDispatch_cases b s with ⟨hlow, hs⟩ | ⟨c, hready, hsome, hs⟩ | ⟨hready, hnone, hkeep, hs⟩ |
    ⟨⟨hready, hnone, hclear⟩ | hhigh, hs⟩ <;> rw [hs]
  · rw [irqDispatch_collecting b (hidx ▸ hlow)]
    simp [blockOf, *]
  · rw [irqDispatch_ready b (hidx.trans hready), irqReady_some (hclient.trans hsome)]
    simp [blockOf, *]
  · rw [irqDispatch_ready b (hidx.trans hready), irqReady_none (hclient.trans hnone)]
    simp [hreset, hkeep, hblock, henv]
  · rw [irqDispatch_ready b (hidx.trans hready), irqReady_none (hclient.trans hnone)]
    simp [blockOf, *]
  · rw [irqDispatch_invalid b (hidx ▸ hhigh)]
    simp [blockOf, *]

/-- A settled value is what an IRQ samples (R46, D9). -/
theorem exec_irq_supplyValue {s : State} (v : Word) (hq : s.seq = .idle) :
    exec .irq (supplyValue v s) =
      .next (irqDispatch (sampleOf v) (handlerEntry (supplyValue v s))) := by
  rw [exec_irq_of_idle (by simpa using hq), nextValue_of_some (supplyValue_valueIn v s)]

/-- Of a settled value the block sees the sample only: the low byte (R46, D9). -/
theorem irqDispatch_handlerEntry_supplyValue (b : Byte) (v v' : Word) (s : State) :
    blockOf (irqDispatch b (handlerEntry (supplyValue v s))) =
        blockOf (irqDispatch b (handlerEntry (supplyValue v' s))) ∧
      (irqDispatch b (handlerEntry (supplyValue v s))).env =
        (irqDispatch b (handlerEntry (supplyValue v' s))).env :=
  irqDispatch_congr b (by simp [blockOf]) (by simp) (by simp)

theorem takeMove_supply (v : Word) (s : State) : takeMove (.supply v) s = .next (supplyValue v s) := rfl

end Sys2Proof.Machine
end

section
/-! The statements about the peripheral's registers and values (20_memory.md). -/

namespace Sys2Proof.Proofs

open Sys2Proof.Machine Sys2Proof.Safety

/-- Settles O27: every output of an operation is a named access, and no other move outputs anything. -/
theorem traceGrowsByTheNamedAccessesOnly : Obligations.TraceGrowsByTheNamedAccessesOnly := by
  intro m s t h
  rcases takeMove_next_operation h with ⟨i, hop, hx⟩ | ⟨_, _, htrace⟩
  · obtain ⟨new, htrace, hout⟩ := exec_outputs hx
    refine ⟨new, htrace, fun e he => ?_, fun hnone => by simp [hop] at hnone⟩
    have hallowed : Allowed e := allowed_of_outputs (hout e he)
    exact ⟨hallowed, ne_rd_inten_of_allowed hallowed, ne_wr_inten_of_allowed hallowed⟩
  · exact ⟨[], by simp [htrace], by simp, fun _ => rfl⟩

/-- Settles O47: the sample is the same, and nothing else of a value reaches the dispatch. -/
theorem highBitsOfAValueNeverReachTheBlock : Obligations.HighBitsOfAValueNeverReachTheBlock := by
  intro s v v' hq hlow
  have hsample : sampleOf v = sampleOf v' := hlow
  obtain ⟨hblock, henv⟩ := irqDispatch_handlerEntry_supplyValue (sampleOf v') v v' s
  exact ⟨_, _, hsample ▸ exec_irq_supplyValue v hq, exec_irq_supplyValue v' hq, hblock, henv⟩

/-- Settles O52: the read of an IRQ is `nextValue` and uses up what `consumeValue` does, in both cases of
the supply. -/
theorem aReadTakesTheSettledValueElseAFreeByte : Obligations.AReadTakesTheSettledValueElseAFreeByte := by
  intro s
  refine ⟨fun v hv => ⟨nextValue_of_some hv, consumeValue_of_some hv⟩,
    fun hv => ⟨nextValue_of_none hv, consumeValue_of_none hv⟩, fun v hq hv => ?_, fun hq hv => ?_,
    fun v => takeMove_supply v s⟩
  · simpa only [nextValue_of_some hv, consumeValue_of_some hv] using exec_irq_reads hq
  · simpa only [nextValue_of_none hv, consumeValue_of_none hv] using exec_irq_reads hq

end Sys2Proof.Proofs
end

section
/-! The fields of an event word: which of them spell an operation, and what the decoder answers to each
class of them (30_encoding.md R60, R61, R68). -/

namespace Sys2Proof

theorem splitWord_encode (i : Instr) : splitWord (encode i) = fieldsOf i :=
  splitWord_joinWord (fieldsOf i)

theorem splitWord_injective : Function.Injective splitWord :=
  Function.LeftInverse.injective joinWord_splitWord

theorem FormatE.opKnown_iff_range (f : FormatE) : f.opKnown = true ↔ 1#4 ≤ f.op ∧ f.op ≤ 5#4 := by
  simp [FormatE.opKnown]

theorem FormatE.opKnown_iff (f : FormatE) :
    f.opKnown = true ↔ f.op = 1#4 ∨ f.op = 2#4 ∨ f.op = 3#4 ∨ f.op = 4#4 ∨ f.op = 5#4 := by
  rw [FormatE.opKnown]
  generalize f.op = op
  revert op
  decide

theorem FormatE.zZero_iff (f : FormatE) : f.zZero = true ↔ f.z = 0#4 := by
  simp [FormatE.zZero]

/-- Only SETCLIENT and RET have an operand, and RET's is one bit (R64, R66). -/
theorem FormatE.argFits_iff (f : FormatE) :
    f.argFits = true ↔ f.op = 3#4 ∨ (f.op = 5#4 ∧ f.arg ≤ 1#8) ∨ (f.op ≠ 5#4 ∧ f.arg = 0#8) := by
  by_cases h3 : f.op = 3#4
  · simp [FormatE.argFits, h3]
  · by_cases h5 : f.op = 5#4 <;> simp [FormatE.argFits, h3, h5]

theorem FormatE.wellFormed_iff (f : FormatE) :
    f.wellFormed = true ↔ f.opKnown = true ∧ f.zZero = true ∧ f.argFits = true := by
  simp [FormatE.wellFormed, and_assoc]

theorem instr_format (i : Instr) : Laws.Format.Statement i := by
  cases i with
  | irq => exact Laws.Format.irq
  | get => exact Laws.Format.get
  | setclient cid => exact Laws.Format.setclient cid
  | draw => exact Laws.Format.draw
  | ret k => exact Laws.Format.ret k

theorem instr_wellFormed (i : Instr) : Instr.wellFormed i = true := by
  obtain ⟨hi, -, -⟩ := instr_format i
  exact hi

theorem fieldsOf_wellFormed (i : Instr) : (fieldsOf i).wellFormed = true := by
  obtain ⟨-, hfields, -⟩ := instr_format i
  exact hfields

theorem instrOfFields_fieldsOf (i : Instr) : instrOfFields (fieldsOf i) = some i := by
  cases i with
  | irq => rfl
  | get => rfl
  | setclient cid => rfl
  | draw => rfl
  | ret k => cases k <;> rfl

theorem instrOfFields_eq_none_iff (f : FormatE) : instrOfFields f = none ↔ f.opKnown = false := by
  rw [← Bool.not_eq_true, FormatE.opKnown_iff]
  simp only [instrOfFields]
  split_ifs <;> simp_all

/-- An operand of RET that fits is the number of a signal (R66, D5). -/
theorem exists_contArg_of_le {arg : Byte} (h : arg ≤ 1#8) : ∃ k, contArg k = arg := by
  have hcases : arg = 0#8 ∨ arg = 1#8 := by bv_omega
  rcases hcases with rfl | rfl
  · exact ⟨.done, rfl⟩
  · exact ⟨.more, rfl⟩

/-- The three checks leave only the fields of operations. -/
theorem exists_fieldsOf_of_wellFormed {f : FormatE} (h : f.wellFormed = true) : ∃ i, fieldsOf i = f := by
  obtain ⟨hop, hz, harg⟩ := f.wellFormed_iff.mp h
  rw [FormatE.opKnown_iff] at hop
  rw [FormatE.zZero_iff] at hz
  rw [FormatE.argFits_iff] at harg
  obtain ⟨op, z, arg⟩ := f
  obtain rfl : z = 0#4 := hz
  rcases hop with rfl | rfl | rfl | rfl | rfl
  · obtain rfl : arg = 0#8 := by simpa using harg
    exact ⟨.irq, rfl⟩
  · obtain rfl : arg = 0#8 := by simpa using harg
    exact ⟨.get, rfl⟩
  · exact ⟨.setclient arg, rfl⟩
  · obtain rfl : arg = 0#8 := by simpa using harg
    exact ⟨.draw, rfl⟩
  · obtain ⟨k, rfl⟩ := exists_contArg_of_le (arg := arg) (by simpa using harg)
    exact ⟨.ret k, rfl⟩

theorem decode_of_opKnown_false {w : EventWord} (h : (splitWord w).opKnown = false) :
    decode w = .error .op := by
  simp [decode, (instrOfFields_eq_none_iff _).mpr h]

/-- With a known `op` the decoder looks at `z`, then at `arg`. -/
theorem decode_of_opKnown {w : EventWord} (h : (splitWord w).opKnown = true) :
    ∃ i, instrOfFields (splitWord w) = some i ∧
      decode w = if (splitWord w).zZero = false then .error .zField
        else if (splitWord w).argFits = false then .error .argField else .ok i := by
  cases hi : instrOfFields (splitWord w) with
  | none => simp [(instrOfFields_eq_none_iff _).mp hi] at h
  | some i => exact ⟨i, rfl, by simp [decode, hi]⟩

theorem decode_of_zZero_false {w : EventWord} (hop : (splitWord w).opKnown = true)
    (hz : (splitWord w).zZero = false) : decode w = .error .zField := by
  obtain ⟨i, -, hw⟩ := decode_of_opKnown hop
  simp [hw, hz]

theorem decode_of_argFits_false {w : EventWord} (hop : (splitWord w).opKnown = true)
    (hz : (splitWord w).zZero = true) (harg : (splitWord w).argFits = false) :
    decode w = .error .argField := by
  obtain ⟨i, -, hw⟩ := decode_of_opKnown hop
  simp [hw, hz, harg]

theorem wellFormed_of_decode {w : EventWord} {i : Instr} (h : decode w = .ok i) :
    (splitWord w).wellFormed = true := by
  rw [FormatE.wellFormed_iff]
  cases hop : (splitWord w).opKnown with
  | false => simp [decode_of_opKnown_false hop] at h
  | true =>
    cases hz : (splitWord w).zZero with
    | false => simp [decode_of_zZero_false hop hz] at h
    | true =>
      cases harg : (splitWord w).argFits with
      | false => simp [decode_of_argFits_false hop hz harg] at h
      | true => exact ⟨rfl, rfl, rfl⟩

theorem decode_encode (i : Instr) : decode (encode i) = .ok i := by
  obtain ⟨-, hz, harg⟩ := (fieldsOf i).wellFormed_iff.mp (fieldsOf_wellFormed i)
  simp [decode, splitWord_encode, instrOfFields_fieldsOf, hz, harg]

theorem exists_encode_of_wellFormed {w : EventWord} (h : (splitWord w).wellFormed = true) :
    ∃ i, encode i = w := by
  obtain ⟨i, hi⟩ := exists_fieldsOf_of_wellFormed h
  exact ⟨i, by rw [encode, hi, joinWord_splitWord]⟩

/-- The decoder and the encoder are inverse to each other on the words that decode. -/
theorem decode_eq_ok_iff {w : EventWord} {i : Instr} : decode w = .ok i ↔ encode i = w := by
  refine ⟨fun h => ?_, fun h => h ▸ decode_encode i⟩
  obtain ⟨j, rfl⟩ := exists_encode_of_wellFormed (wellFormed_of_decode h)
  obtain rfl : j = i := by simpa [decode_encode] using h
  rfl

theorem decode_eq_ok_iff_fields {w : EventWord} {i : Instr} :
    decode w = .ok i ↔ splitWord w = fieldsOf i := by
  rw [decode_eq_ok_iff, ← splitWord_injective.eq_iff, splitWord_encode, eq_comm]

theorem exists_decode_iff (w : EventWord) : (∃ i, decode w = .ok i) ↔ (splitWord w).wellFormed = true := by
  refine ⟨fun ⟨_, h⟩ => wellFormed_of_decode h, fun h => ?_⟩
  obtain ⟨i, hi⟩ := exists_encode_of_wellFormed h
  exact ⟨i, decode_eq_ok_iff.mpr hi⟩

theorem encode_injective : Function.Injective encode := by
  intro i j h
  simpa [h, decode_encode] using (decode_encode i).symm

end Sys2Proof
end

section
/-! The reserved classes of 30_encoding.md R68, each by the check it fails. -/

namespace Sys2Proof

variable {f : FormatE}

theorem FormatE.opKnown_eq_false (h : f.op = 0#4 ∨ 5#4 < f.op) : f.opKnown = false := by
  rw [← Bool.not_eq_true, FormatE.opKnown_iff_range]
  bv_omega

theorem FormatE.zZero_eq_false (h : f.z ≠ 0#4) : f.zZero = false := by
  rwa [← Bool.not_eq_true, FormatE.zZero_iff]

theorem FormatE.opKnown_of_noOperand (h : f.op = 1#4 ∨ f.op = 2#4 ∨ f.op = 4#4) : f.opKnown = true := by
  rw [FormatE.opKnown_iff]
  tauto

/-- IRQ, GET and DRAW admit no operand. -/
theorem FormatE.argFits_eq_false_of_noOperand (hop : f.op = 1#4 ∨ f.op = 2#4 ∨ f.op = 4#4)
    (harg : f.arg ≠ 0#8) : f.argFits = false := by
  rw [← Bool.not_eq_true, FormatE.argFits_iff]
  rcases hop with h | h | h <;> simp [h, harg]

theorem FormatE.argFits_eq_false_of_ret (hop : f.op = 5#4) (harg : 2#8 ≤ f.arg) : f.argFits = false := by
  have hlarge : ¬ f.arg ≤ 1#8 := by bv_omega
  rw [← Bool.not_eq_true, FormatE.argFits_iff]
  simp [hop, hlarge]

end Sys2Proof
end

section
/-! The masks and matches of the opcode map, field by field (30_encoding.md R61, R67). -/

namespace Sys2Proof

theorem splitWord_and (w m : EventWord) :
    splitWord (w &&& m) =
      ⟨(splitWord w).op &&& (splitWord m).op, (splitWord w).z &&& (splitWord m).z,
        (splitWord w).arg &&& (splitWord m).arg⟩ := by
  simp [splitWord, BitVec.extractLsb'_and]

/-- A row without operand: the mask keeps the whole word. -/
theorem decode_eq_ok_iff_and_FFFF (w : EventWord) (i : Instr) :
    decode w = .ok i ↔ w &&& 0xFFFF#16 = encode i := by
  have hmask : w &&& 0xFFFF#16 = w := BitVec.and_allOnes
  rw [hmask, decode_eq_ok_iff, eq_comm]

/-- SETCLIENT's row: the mask drops the operand. -/
theorem decode_eq_setclient_iff (w : EventWord) (cid : ClientId) :
    decode w = .ok (.setclient cid) ↔ w &&& 0xFF00#16 = 0x3000#16 ∧ cid = w.extractLsb' 0 8 := by
  have hmask : splitWord 0xFF00#16 = ⟨BitVec.allOnes 4, BitVec.allOnes 4, 0#8⟩ := by decide
  have hmatch : splitWord 0x3000#16 = ⟨3#4, 0#4, 0#8⟩ := by decide
  have harg : w.extractLsb' 0 8 = (splitWord w).arg := rfl
  rw [decode_eq_ok_iff_fields, ← splitWord_injective.eq_iff, splitWord_and, hmask, hmatch, harg]
  obtain ⟨op, z, arg⟩ := splitWord w
  simp only [fieldsOf, FormatE.mk.injEq, BitVec.and_allOnes, BitVec.and_zero, and_true, and_assoc,
    eq_comm (a := cid)]

/-- An operand of RET is the number of a signal where `arg[7:1]` is zero and `arg[0]` is the signal (R66, R67). -/
theorem eq_contArg_iff (k : Cont) (arg : Byte) :
    arg = contArg k ↔
      arg &&& 0xFE#8 = 0#8 ∧ (arg.getLsbD 0 = false → k = .done) ∧ (arg.getLsbD 0 = true → k = .more) := by
  cases k <;> revert arg <;> decide

/-- RET's row: the mask drops the operand's one bit. -/
theorem decode_eq_ret_iff (w : EventWord) (k : Cont) :
    decode w = .ok (.ret k) ↔
      w &&& 0xFFFE#16 = 0x5000#16 ∧ (w.getLsbD 0 = false → k = .done) ∧ (w.getLsbD 0 = true → k = .more) := by
  have hmask : splitWord 0xFFFE#16 = ⟨BitVec.allOnes 4, BitVec.allOnes 4, 0xFE#8⟩ := by decide
  have hmatch : splitWord 0x5000#16 = ⟨5#4, 0#4, 0#8⟩ := by decide
  have hbit : w.getLsbD 0 = (splitWord w).arg.getLsbD 0 := by simp [splitWord]
  rw [decode_eq_ok_iff_fields, ← splitWord_injective.eq_iff, splitWord_and, hmask, hmatch, hbit]
  obtain ⟨op, z, arg⟩ := splitWord w
  simp only [fieldsOf, FormatE.mk.injEq, eq_contArg_iff, BitVec.and_allOnes, and_assoc]

end Sys2Proof
end

section
/-! The operations, counted (30_encoding.md R68). -/

namespace Sys2Proof

/-- The operations without a client identifier, then SETCLIENT with each of the 256 identifiers. -/
def allInstrs : List Instr :=
  [.irq, .get, .draw, .ret .done, .ret .more] ++ (List.finRange 256).map fun n => .setclient (BitVec.ofFin n)

theorem mem_allInstrs (i : Instr) : i ∈ allInstrs := by
  cases i with
  | irq => simp [allInstrs]
  | get => simp [allInstrs]
  | setclient cid => exact List.mem_append_right _ (List.mem_map.mpr ⟨cid.toFin, List.mem_finRange _, rfl⟩)
  | draw => simp [allInstrs]
  | ret k => cases k <;> simp [allInstrs]

theorem allInstrs_nodup : allInstrs.Nodup := by
  refine List.nodup_append'.mpr ⟨by decide, ?_, by simp [List.Disjoint]⟩
  refine (List.nodup_finRange 256).map fun m n h => ?_
  simpa using h

theorem allInstrs_length : allInstrs.length = 261 := by
  simp [allInstrs]

theorem mem_map_encode_iff (w : EventWord) : w ∈ allInstrs.map encode ↔ ∃ i, decode w = .ok i := by
  simp [mem_allInstrs, decode_eq_ok_iff]

end Sys2Proof
end

section
/-! What presenting a word comes to, and in which sequencer state an operation is performed
(30_encoding.md R68, R69). -/

namespace Sys2Proof.Machine

open Sys2Proof.Safety

theorem takeMove_present (w : EventWord) (s : State) : takeMove (.present w) s = present w s := rfl

theorem takeMove_present_reserved {w : EventWord} {r : Reserved} (s : State) (h : decode w = .error r) :
    takeMove (.present w) s = .refused (.reservedWord w r) := by
  rw [takeMove_present, present_reserved s h]

theorem seq_of_exec_next {i : Instr} {s t : State} (h : exec i s = .next t) : s.seq = acceptedIn i := by
  rcases exec_next_cases h with ⟨rfl, hq, _⟩ | ⟨rfl, hq, _⟩ | ⟨cid, rfl, hq, _⟩ | ⟨rfl, hq, _⟩ |
    ⟨rfl, hq, _⟩ | ⟨rfl, hq, _⟩ <;> exact hq

theorem exec_next_of_seq {i : Instr} {s : State} (h : s.seq = acceptedIn i) : ∃ t, exec i s = .next t := by
  cases i with
  | irq => exact ⟨_, exec_irq_of_idle h⟩
  | get => exact ⟨_, exec_get_of_idle h⟩
  | setclient cid => exact ⟨_, exec_setclient_of_idle cid h⟩
  | draw => exact ⟨_, exec_draw_of_deliver h⟩
  | ret k => exact ⟨_, exec_ret_of_deliver k h⟩

end Sys2Proof.Machine
end

section
/-! Reading an event back from its carrier (30_encoding.md R73). -/

namespace Sys2Proof.Machine

/-- The controller primitive of a code; 3 is no primitive's code (U18). -/
def ctlOfCode (code : BitVec 2) : Option CtlOp :=
  if code = 0#2 then some .enable
  else if code = 1#2 then some .disable
  else if code = 2#2 then some .clearPend
  else none

/-- The event a carrier stands for; the word lines of an answer with `some = 0` are not read (U15). -/
def eventOf (c : Carrier) : Option Event :=
  match c with
  | .busWrite r v => some (.wr r v)
  | .busRead r v => some (.rd r v)
  | .ctlPort code _ => (ctlOfCode code).map .ctl
  | .strobe c => some (.cb c)
  | .answer true w => some (.yield (some w))
  | .answer false _ => some (.yield none)

theorem ctlOfCode_ctlCode (op : CtlOp) : ctlOfCode (ctlCode op) = some op := by
  cases op <;> rfl

theorem eventOf_carrierOf (n : Nat) (e : Event) : eventOf (carrierOf n e) = some e := by
  cases e with
  | rd r v => rfl
  | wr r v => rfl
  | ctl op => exact congrArg (Option.map Event.ctl) (ctlOfCode_ctlCode op)
  | cb c => rfl
  | yield r => cases r <;> rfl

theorem carrierOf_injective (n : Nat) : Function.Injective (carrierOf n) := by
  intro e e' h
  simpa [h, eventOf_carrierOf] using (eventOf_carrierOf n e).symm

theorem carrierOf_ne_code_three (n : Nat) (e : Event) (src : Nat) : carrierOf n e ≠ .ctlPort 3#2 src := by
  intro h
  have hread : eventOf (.ctlPort 3#2 src) = some e := h ▸ eventOf_carrierOf n e
  cases hread

end Sys2Proof.Machine
end

section
/-! Loading a script of operations (30_encoding.md R71). -/

namespace Sys2Proof.Machine

theorem loadScript_op_cons (s : State) (i : Instr) (ls : List ScriptLine) :
    loadScript s (.op i :: ls) = loadScript { s with agenda := s.agenda ++ [.present (encode i)] } ls := rfl

theorem loadScript_ops (ops : List Instr) (s : State) :
    loadScript s (ops.map ScriptLine.op) =
      some { s with agenda := s.agenda ++ ops.map fun i => .present (encode i) } := by
  induction ops generalizing s with
  | nil => simp [loadScript]
  | cons i ops ih => rw [List.map_cons, loadScript_op_cons, ih]; simp

end Sys2Proof.Machine
end

section
/-! The statements about the event words, the carriers and the scripts (30_encoding.md). -/

namespace Sys2Proof.Proofs

open Sys2Proof.Machine Sys2Proof.Safety

/-- Settles O1: the fields of an operation's word pass the three checks and name the operation. -/
theorem decodeInvertsEncode : Obligations.DecodeInvertsEncode :=
  fun i _ => decode_encode i

/-- Settles O2: the fields that pass the three checks are those of an operation. -/
theorem encodeInvertsDecode : Obligations.EncodeInvertsDecode :=
  fun _ _ h => decode_eq_ok_iff.mp h

/-- Settles O3, row by row. -/
theorem decodeFollowsOpcodeMap : Obligations.DecodeFollowsOpcodeMap :=
  fun w => ⟨decode_eq_ok_iff_and_FFFF w .irq, decode_eq_ok_iff_and_FFFF w .get, decode_eq_setclient_iff w,
    decode_eq_ok_iff_and_FFFF w .draw, decode_eq_ret_iff w⟩

/-- Settles O4: a word decodes where it is the word of an operation, and then has that operation's fields. -/
theorem wellFormedFieldsSpellAnOperation : Obligations.WellFormedFieldsSpellAnOperation := by
  intro w
  refine ⟨?_, fun i h => ⟨instr_wellFormed i, (decode_eq_ok_iff_fields.mp h).symm⟩⟩
  rw [exists_decode_iff, FormatE.wellFormed_iff]

/-- Settles O5: each class fails one of the three checks and passes those before it. -/
theorem reservedWordsAreRefused : Obligations.ReservedWordsAreRefused := by
  intro w s
  refine ⟨fun hop => ?_, fun hlow hhigh hz => ?_, fun hop hz harg => ?_, fun hop hz harg => ?_⟩ <;>
    apply takeMove_present_reserved
  · exact decode_of_opKnown_false (FormatE.opKnown_eq_false hop)
  · exact decode_of_zZero_false ((splitWord w).opKnown_iff_range.mpr ⟨hlow, hhigh⟩)
      (FormatE.zZero_eq_false hz)
  · exact decode_of_argFits_false (FormatE.opKnown_of_noOperand hop) ((splitWord w).zZero_iff.mpr hz)
      (FormatE.argFits_eq_false_of_noOperand hop harg)
  · exact decode_of_argFits_false ((splitWord w).opKnown_iff.mpr (.inr (.inr (.inr (.inr hop)))))
      ((splitWord w).zZero_iff.mpr hz) (FormatE.argFits_eq_false_of_ret hop harg)

/-- Settles O6: the words of all operations, no two of them alike. -/
theorem exactlyTwoHundredSixtyOneWordsDecode : Obligations.ExactlyTwoHundredSixtyOneWordsDecode :=
  ⟨allInstrs.map encode, allInstrs_nodup.map encode_injective,
    by rw [List.length_map, allInstrs_length], mem_map_encode_iff⟩

/-- Settles O20, operation by operation. -/
theorem acceptanceDependsOnTheSequencerOnly : Obligations.AcceptanceDependsOnTheSequencerOnly :=
  fun _ _ => ⟨fun ⟨_, h⟩ => seq_of_exec_next h, exec_next_of_seq⟩

/-- Settles O48: the event can be read back from its carrier, and from code 3 no event can. -/
theorem carriersDetermineTheirEvents : Obligations.CarriersDetermineTheirEvents :=
  fun n e _ => ⟨fun h => carrierOf_injective n h, carrierOf_ne_code_three n e⟩

/-- Settles O49, by induction on the operations. -/
theorem scriptsPresentTheirEventWordsInOrder : Obligations.ScriptsPresentTheirEventWordsInOrder :=
  loadScript_ops

/-- Settles O7: nine fixed words, evaluated. -/
theorem specWordsDecode : Obligations.SpecWordsDecode := by
  unfold Obligations.SpecWordsDecode
  decide

/-- Settles O8: the next move of the agenda is the presentation, and the word decodes. -/
theorem stepPerformsPresentedWord : Obligations.StepPerformsPresentedWord := by
  intro s w rest i hnext hw _
  rw [step_of_cons hnext, takeMove_present, present_ok _ hw]

end Sys2Proof.Proofs
end

section
/-! What IRQ, DRAW and RET come to, branch by branch (40_interrupt_handler.md R82 to R87,
41_delivery_iterator.md R100). -/

namespace Sys2Proof.Machine

open Sys2Proof.Safety

/-- Below Ready the counter does not wrap. -/
theorem index_add_one_toNat {i : Index} (h : i.toNat ≤ 3) : (i + 1#3).toNat = i.toNat + 1 := by
  rw [BitVec.toNat_add]
  exact Nat.mod_eq_of_lt (show i.toNat + 1 < 8 by omega)

theorem exec_irq_of_collecting {s : State} (hq : s.seq = .idle) (hlow : s.idx ≤ 3#3) :
    exec .irq s = .next (startRng (accumulate (sampleOf (nextValue s)) (handlerEntry s))) := by
  rw [exec_irq_of_idle hq, irqDispatch_collecting _ (by simpa using hlow)]

theorem exec_irq_of_ready {s : State} (hq : s.seq = .idle) (hready : s.idx = 4#3) :
    exec .irq s = .next (irqReady (handlerEntry s)) := by
  rw [exec_irq_of_idle hq, irqDispatch_ready _ (by simpa using hready)]

theorem exec_irq_of_registered {s : State} {c : ClientId} (hq : s.seq = .idle) (hready : s.idx = 4#3)
    (hc : s.client = some c) : exec .irq s = .next (enterCallback c (handlerEntry s)) := by
  rw [exec_irq_of_ready hq hready, irqReady_some (by simpa using hc)]

theorem exec_irq_of_invalid {s : State} (hq : s.seq = .idle) (hhigh : 5#3 ≤ s.idx) :
    exec .irq s = .next (clearGeneration (handlerEntry s)) := by
  rw [exec_irq_of_idle hq, irqDispatch_invalid _ (by simpa using hhigh)]

theorem exec_draw_of_ready {s : State} (hq : s.seq = .deliver) (hready : s.idx = 4#3) :
    exec .draw s = .next (emit (.yield (some s.acc)) (clearGeneration s)) := by
  rw [exec_draw_of_deliver hq, drawOnce_ready hready, yieldAnswer_eq]

theorem exec_draw_of_empty {s : State} (hq : s.seq = .deliver) (hempty : s.idx ≠ 4#3) :
    exec .draw s = .next (emit (.yield none) s) := by
  rw [exec_draw_of_deliver hq, drawOnce_empty hempty, yieldAnswer_eq]

theorem exec_ret_of_idle {s : State} (k : Cont) (h : s.seq = .idle) :
    exec (.ret k) s = .refused .retOutsideCallback := by
  simp [exec, execRet, h]

end Sys2Proof.Machine
end

section
/-! The VALUE reads in the trace (40_interrupt_handler.md R83). -/

namespace Sys2Proof.Machine

open Sys2Proof.Safety

theorem armTrace_reads_nothing : ∀ e ∈ armTrace, isValueRead e = false := by
  simp [armTrace, isValueRead]

theorem countP_isValueRead_eq_zero {new : List Event} (h : ∀ e ∈ new, isValueRead e = false) :
    new.countP isValueRead = 0 :=
  List.countP_eq_zero.mpr fun e he => by simp [h e he]

/-- The byte is read at the entry; no branch of the dispatch reads another. -/
theorem irqDispatch_reads_nothing (b : Byte) (s : State) :
    ∃ rest, (irqDispatch b s).trace = s.trace ++ rest ∧ rest.countP isValueRead = 0 := by
  rcases irqDispatch_cases b s with ⟨_, h⟩ | ⟨c, _, _, h⟩ | ⟨_, _, _, h⟩ | ⟨_, h⟩ <;> rw [h]
  · exact ⟨armTrace, by simp, countP_isValueRead_eq_zero armTrace_reads_nothing⟩
  · exact ⟨[.cb c], by simp, rfl⟩
  · exact ⟨[], by simp, rfl⟩
  · exact ⟨[], by simp, rfl⟩

theorem outputs_reads_nothing {i : Instr} {s : State} {e : Event} (h : Outputs s i e) (hi : i ≠ .irq) :
    isValueRead e = false := by
  cases h with
  | mask => contradiction
  | read => contradiction
  | arm h => exact armTrace_reads_nothing e h
  | call => contradiction
  | word => rfl
  | noWord => rfl

end Sys2Proof.Machine
end

section
/-! The word that samples make, one sample more and byte by byte (20_memory.md R50). -/

namespace Sys2Proof.Safety

open Sys2Proof.Machine

/-- One sample more fills the byte position after those filled. -/
theorem assemble_append_singleton (bs : List Byte) (b : Byte) :
    assemble (bs ++ [b]) = assemble bs ||| b.setWidth 32 <<< (8 * bs.length) := by
  induction bs with
  | nil => simp [assemble]
  | cons b' bs ih =>
    simp [assemble, ih, BitVec.shiftLeft_or_distrib, ← BitVec.shiftLeft_add, BitVec.or_assoc, Nat.mul_add]

theorem byteAt_setWidth_zero (b : Byte) : byteAt (b.setWidth 32) 0 = b := by
  apply BitVec.eq_of_getLsbD_eq
  intro k hk
  simp [byteAt, hk, show k < 32 by omega]

theorem byteAt_shiftLeft_zero (w : Word) : byteAt (w <<< 8) 0 = 0#8 := by
  apply BitVec.eq_of_getLsbD_eq
  intro k hk
  simp [byteAt, hk]

/-- A word moved up by one byte position holds at each position what stood one position below. -/
theorem byteAt_shiftLeft_succ (w : Word) {p : Nat} (hp : p < 3) : byteAt (w <<< 8) (p + 1) = byteAt w p := by
  apply BitVec.eq_of_getLsbD_eq
  intro k hk
  have hbound : 8 * (p + 1) + k < 32 := by omega
  have habove : ¬ 8 * (p + 1) + k < 8 := by omega
  have hbelow : 8 * (p + 1) + k - 8 = 8 * p + k := by omega
  simp [byteAt, hk, hbound, habove, hbelow, -BitVec.getLsbD_eq_getElem]

theorem byteAt_setWidth_succ (b : Byte) (p : Nat) : byteAt (b.setWidth 32) (p + 1) = 0#8 := by
  simpa [placeByte] using byteAt_placeByte_above b (e := 0#3) (Nat.succ_pos p)

/-- Each sample is found again at its place in the word. -/
theorem byteAt_assemble {bs : List Byte} {p : Nat} (hp : p < 4) (hlen : p < bs.length) :
    byteAt (assemble bs) p = bs[p] := by
  induction bs generalizing p with
  | nil => simp at hlen
  | cons b bs ih =>
    cases p with
    | zero => simp [assemble, byteAt_or, byteAt_setWidth_zero, byteAt_shiftLeft_zero]
    | succ p =>
      rw [assemble, byteAt_or, byteAt_setWidth_succ, byteAt_shiftLeft_succ _ (by omega),
        ih (by omega) (by simpa using hlen)]
      simp

theorem assemble_four (b0 b1 b2 b3 : Byte) :
    assemble [b0, b1, b2, b3] =
      b0.setWidth 32 ||| b1.setWidth 32 <<< 8 ||| b2.setWidth 32 <<< 16 ||| b3.setWidth 32 <<< 24 := by
  simp [assemble, BitVec.shiftLeft_or_distrib, ← BitVec.shiftLeft_add, BitVec.or_assoc]

end Sys2Proof.Safety
end

section
/-! The observer of the trace (95_test_vectors.md Q2): which events it looks at, and the block's agreement
with it. -/

namespace Sys2Proof.Safety

open Sys2Proof.Machine

@[simp] theorem observeAll_append (t new : List Event) :
    observeAll (t ++ new) = new.foldl observe (observeAll t) :=
  List.foldl_append

@[simp] theorem foldl_observe_maskTrace (o : WordLog) : maskTrace.foldl observe o = o := rfl

@[simp] theorem foldl_observe_armTrace (o : WordLog) : armTrace.foldl observe o = o := rfl

@[simp] theorem observe_callback (o : WordLog) (c : ClientId) : observe o (.cb c) = o := rfl

@[simp] theorem observe_noWord (o : WordLog) : observe o (.yield none) = o := rfl

theorem observe_read_wanted {o : WordLog} (v : Word) (h : o.bytes.length ≤ 3) :
    observe o (.rd .value v) = ⟨o.bytes ++ [sampleOf v], o.good⟩ :=
  if_pos (Nat.lt_succ_of_le h)

theorem observe_read_lost {o : WordLog} (v : Word) (h : o.bytes.length = 4) :
    observe o (.rd .value v) = o :=
  if_neg (by omega)

/-- What shows the observer nothing and leaves `idx`, `acc` and `P_NOCLIENT_RESET` alone keeps the agreement. -/
theorem wordsTrue_of_unseen {s t : State} (hs : WordsTrue s)
    (hseen : observeAll t.trace = observeAll s.trace) (hidx : t.idx = s.idx) (hacc : t.acc = s.acc)
    (hreset : t.noClientReset = s.noClientReset) : WordsTrue t := by
  simpa only [WordsTrue, hseen, hidx, hacc, hreset] using hs

/-- Collecting: the observer and the block take in the same sample (40_interrupt_handler.md R82). -/
theorem wordsTrue_collect {s : State} (hlow : s.idx ≤ 3#3) (hs : WordsTrue s) :
    WordsTrue (startRng (accumulate (sampleOf (nextValue s)) (handlerEntry s))) := by
  obtain ⟨hreset, -, hgood, hlen, hword⟩ := hs
  have hnat : s.idx.toNat ≤ 3 := hlow
  have hnext := index_add_one_toNat hnat
  have hread := observe_read_wanted (nextValue s) (hlen.trans_le hnat)
  refine ⟨by simpa using hreset, ?_, by simpa [hread] using hgood, ?_, ?_⟩
  · simpa [BitVec.le_def, hnext] using Nat.lt_succ_of_le hnat
  · simp [hread, hnext, hlen]
  · simp [hread, assemble_append_singleton, hlen, hword, placeByte]

/-- Off the Collecting branch the read of the handler's entry is lost (40_interrupt_handler.md R83). -/
theorem wordsTrue_handlerEntry {s : State} (hready : s.idx = 4#3) (hs : WordsTrue s) :
    WordsTrue (handlerEntry s) := by
  have ⟨_, _, _, hlen, _⟩ := hs
  have hfour : (observeAll s.trace).bytes.length = 4 := by simpa [hready] using hlen
  exact wordsTrue_of_unseen hs (by simp [observe_read_lost _ hfour]) (by simp) (by simp) (by simp)

theorem wordsTrue_irqReady {s : State} (hs : WordsTrue s) : WordsTrue (irqReady s) := by
  cases hc : s.client with
  | some c =>
    rw [irqReady_some hc]
    exact wordsTrue_of_unseen hs (by simp) rfl rfl rfl
  | none =>
    have ⟨hreset, _⟩ := hs
    simpa [irqReady_none hc, hreset] using hs

theorem wordsTrue_exec_irq {s t : State} (h : exec .irq s = .next t) (hs : WordsTrue s) : WordsTrue t := by
  have hq : s.seq = .idle := seq_of_exec_next h
  rcases index_classes s.idx with hlow | hready | hhigh
  · rw [exec_irq_of_collecting hq hlow] at h
    cases h
    exact wordsTrue_collect hlow hs
  · rw [exec_irq_of_ready hq hready] at h
    cases h
    exact wordsTrue_irqReady (wordsTrue_handlerEntry hready hs)
  · obtain ⟨-, hle, -⟩ := hs
    exact absurd (BitVec.le_trans hhigh hle) (by decide)

/-- A word is yielded only where the four samples of it have been seen (41_delivery_iterator.md R100). -/
theorem wordsTrue_drawOnce {s : State} (hs : WordsTrue s) : WordsTrue (drawOnce s) := by
  rcases drawOnce_cases s with ⟨hready, h⟩ | ⟨_, h⟩ <;> rw [h]
  · obtain ⟨hreset, -, hgood, hlen, hword⟩ := hs
    have hfour : (observeAll s.trace).bytes.length = 4 := by simpa [hready] using hlen
    have hseen : observeAll (s.trace ++ [.yield (some s.acc)]) = ⟨[], true⟩ := by
      simp [observe, hgood, hfour, hword]
    exact ⟨hreset, by simp, by simp [hseen], by simp [hseen], by simp [hseen, assemble]⟩
  · exact wordsTrue_of_unseen hs (by simp) rfl rfl rfl

theorem wordsTrue_exec {i : Instr} {s t : State} (h : exec i s = .next t) (hs : WordsTrue s) :
    WordsTrue t := by
  rcases exec_next_cases h with ⟨rfl, _, _⟩ | ⟨_, _, rfl⟩ | ⟨cid, _, _, rfl⟩ | ⟨_, _, rfl⟩ |
    ⟨_, _, rfl⟩ | ⟨_, _, rfl⟩
  · exact wordsTrue_exec_irq h hs
  · exact wordsTrue_of_unseen hs (by simp) rfl rfl rfl
  · exact hs
  · exact wordsTrue_drawOnce hs
  · exact wordsTrue_of_unseen hs (by simp) rfl rfl rfl
  · exact hs

end Sys2Proof.Safety
end

section
/-! Runs of presented operations and settled values: collecting samples (40_interrupt_handler.md R88) and
drawing (R89). -/

namespace Sys2Proof.Machine

open Sys2Proof.Safety

/-- A presented operation that is performed is one step of a run. -/
theorem run_present {s t : State} {w : EventWord} {i : Instr} {rest : List Move} (k : Nat)
    (hnext : s.agenda = .present w :: rest) (hw : decode w = .ok i)
    (hx : exec i { s with agenda := rest } = .next t) :
    Host.Core.run Sys2Proof.core (k + 1) s = Host.Core.run Sys2Proof.core k t :=
  run_next k (by rw [step_of_cons hnext, takeMove_present, present_ok _ hw, hx])

theorem run_supply {s : State} {v : Word} {rest : List Move} (k : Nat) (hnext : s.agenda = .supply v :: rest) :
    Host.Core.run Sys2Proof.core (k + 1) s =
      Host.Core.run Sys2Proof.core k (supplyValue v { s with agenda := rest }) :=
  run_next k (by rw [step_of_cons hnext, takeMove_supply])

/-- The moves by which the environment settles a value and IRQ reads it. -/
def sampleMoves (v : Word) : List Move :=
  [.supply v, .present 0x1000#16]

/-- One settled value collected: two steps. -/
theorem run_sampleMoves {s : State} {v : Word} {rest : List Move} (hq : s.seq = .idle)
    (hlow : s.idx.toNat ≤ 3) (hnext : s.agenda = sampleMoves v ++ rest) :
    ∃ t, Host.Core.run Sys2Proof.core 2 s = .next t ∧ t.idx = s.idx + 1#3 ∧
      t.acc = s.acc ||| placeByte (sampleOf v) s.idx ∧ t.client = s.client ∧ t.seq = .idle ∧
      t.agenda = rest := by
  have hrun := (run_supply 1 hnext).trans
    (run_present 0 rfl decode_irqWord (exec_irq_of_collecting hq (BitVec.le_def.mpr hlow)))
  exact ⟨_, hrun, by simp [hq, nextValue_of_some]⟩

/-- Settled values collected one after the other make the word of their samples, from position `idx` on. -/
theorem run_samples (vs : List Word) {s : State} {rest : List Move} (hq : s.seq = .idle)
    (hroom : s.idx.toNat + vs.length ≤ 4) (hnext : s.agenda = vs.flatMap sampleMoves ++ rest) :
    ∃ t, Host.Core.run Sys2Proof.core (2 * vs.length) s = .next t ∧
      t.idx.toNat = s.idx.toNat + vs.length ∧
      t.acc = s.acc ||| assemble (vs.map sampleOf) <<< (8 * s.idx.toNat) ∧ t.client = s.client ∧
      t.seq = .idle ∧ t.agenda = rest := by
  induction vs generalizing s with
  | nil => exact ⟨s, by simp [run_zero], by simp, by simp [assemble], rfl, hq, by simpa using hnext⟩
  | cons v vs ih =>
    rw [List.length_cons] at hroom ⊢
    rw [List.flatMap_cons, List.append_assoc] at hnext
    obtain ⟨s', hrun, hidx, hacc, hclient, hq', hnext'⟩ := run_sampleMoves hq (by omega) hnext
    have hidx' : s'.idx.toNat = s.idx.toNat + 1 := by rw [hidx, index_add_one_toNat (by omega)]
    obtain ⟨t, hrun', hidxt, hacct, hclientt, hqt, hnextt⟩ := ih hq' (by omega) hnext'
    refine ⟨t, ?_, by omega, ?_, hclientt.trans hclient, hqt, hnextt⟩
    · rw [show 2 * (vs.length + 1) = 2 + 2 * vs.length by omega, run_append _ _ hrun, hrun']
    · rw [hacct, hacc, hidx']
      simp [assemble, placeByte, BitVec.shiftLeft_or_distrib, ← BitVec.shiftLeft_add, BitVec.or_assoc,
        Nat.mul_add, Nat.add_comm]

/-- The event word of DRAW (30_encoding.md R65). -/
theorem decode_drawWord : decode 0x4000#16 = .ok .draw := rfl

/-- Draws where no word is ready yield nothing and change nothing else (41_delivery_iterator.md R100). -/
theorem run_draws_of_empty (n : Nat) {s : State} {rest : List Move} (hq : s.seq = .deliver)
    (hempty : s.idx ≠ 4#3) (hnext : s.agenda = List.replicate n (.present 0x4000#16) ++ rest) :
    Host.Core.run Sys2Proof.core n s =
      .next { s with agenda := rest, trace := s.trace ++ List.replicate n (.yield none) } := by
  induction n generalizing s with
  | zero => simp [run_zero, ← show s.agenda = rest by simpa using hnext]
  | succ n ih =>
    have hdraw := run_present n hnext decode_drawWord (exec_draw_of_empty hq hempty)
    have hrest := ih (s := emit (.yield none) { s with agenda := _ }) hq hempty rfl
    rw [hdraw.trans hrest]
    simp [List.replicate_succ]

/-- What the `j`-th draw of a callback that begins with the word `w` yields (41_delivery_iterator.md R101). -/
theorem map_answers_succ (w : Word) (n : Nat) :
    (List.range (n + 1)).map (fun j => Event.yield (if j = 0 then some w else none)) =
      .yield (some w) :: List.replicate n (.yield none) := by
  simp [List.range_succ_eq_map, Function.comp_def]

/-- Draws where a word is ready: the first yields it and resets, the others yield nothing. -/
theorem run_draws_of_ready (n : Nat) {s : State} {rest : List Move} (hq : s.seq = .deliver)
    (hready : s.idx = 4#3) (hnext : s.agenda = List.replicate n (.present 0x4000#16) ++ rest) :
    ∃ t, Host.Core.run Sys2Proof.core n s = .next t ∧ t.seq = .deliver ∧ t.client = s.client ∧
      t.agenda = rest ∧ t.env = s.env ∧ (n = 0 → t.idx = 4#3 ∧ t.acc = s.acc) ∧
      (0 < n → t.idx = 0#3 ∧ t.acc = 0#32) ∧
      t.trace = s.trace ++ (List.range n).map fun j => Event.yield (if j = 0 then some s.acc else none) := by
  cases n with
  | zero => exact ⟨s, by simp [run_zero], hq, rfl, by simpa using hnext, rfl, by simp [hready]⟩
  | succ n =>
    have hfirst := run_present n hnext decode_drawWord (exec_draw_of_ready hq hready)
    have hothers := run_draws_of_empty n (rest := rest)
      (s := emit (.yield (some s.acc)) (clearGeneration { s with agenda := _ })) hq (by simp) rfl
    exact ⟨_, hfirst.trans hothers, by simp [hq, map_answers_succ]⟩

@[simp] theorem afterCallback_done (s : State) : afterCallback .done s = s := rfl

@[simp] theorem afterCallback_more (s : State) : afterCallback .more s = startRng s := rfl

end Sys2Proof.Machine
end

section
/-! The statements about the interrupt handler (40_interrupt_handler.md). -/

namespace Sys2Proof.Proofs

open Sys2Proof.Machine Sys2Proof.Safety

/-- Settles O36: a sample enters the observer's word and the accumulator alike, and a draw yields the
accumulator only where four have entered. -/
theorem stepKeepsYieldedWordsTrue : Obligations.StepKeepsYieldedWordsTrue := by
  intro s t hs h
  rcases step_next_cases h with ⟨_, rfl⟩ | ⟨m, rest, _, hm⟩
  · exact hs
  · have hs' : WordsTrue { s with agenda := rest } := hs
    rcases takeMove_next_cases hm with ⟨_, _, _, _, hx⟩ | ⟨_, _, _, _, hx⟩ | ⟨_, _, rfl⟩ |
      ⟨_, _, rfl⟩ | ⟨_, _, _, rfl⟩
    · exact wordsTrue_exec hx hs'
    · exact wordsTrue_exec hx hs'
    · exact hs'
    · exact hs'
    · exact hs'

/-- Settles O12: the entry, the sample at position `idx`, and the start. -/
theorem irqCollectsOneByteAndRearms : Obligations.IrqCollectsOneByteAndRearms := by
  intro s hq hlow
  rw [exec_irq_of_collecting hq hlow, startRng_eq, handlerEntry_eq]
  simp [accumulate, placeByte, sampleOf]

/-- Settles O13: the entry and the call. -/
theorem irqCallsTheRegisteredClient : Obligations.IrqCallsTheRegisteredClient := by
  intro s c hq hready hc
  rw [exec_irq_of_registered hq hready hc, handlerEntry_eq]
  rfl

/-- Settles O14: the entry and, for one value of `P_NOCLIENT_RESET`, the reset. -/
theorem irqWithoutClientKeepsTheWord : Obligations.IrqWithoutClientKeepsTheWord := by
  intro s hq hready hc
  rw [exec_irq_of_ready hq hready, irqReady_none (by simpa using hc), handlerEntry_noClientReset,
    handlerEntry_eq]
  cases hn : s.noClientReset with
  | true => rfl
  | false =>
    simp only [Bool.false_eq_true, if_false]
    rw [← hready, ← consumeValue_idx s, ← consumeValue_acc s]

/-- Settles O15: the entry and the reset. -/
theorem irqRecoversFromInvalidIndex : Obligations.IrqRecoversFromInvalidIndex := by
  intro s hq hhigh
  rw [exec_irq_of_invalid hq hhigh, handlerEntry_eq]
  rfl

/-- Settles O26: IRQ's read is that of its entry, and reading is no output of another operation. -/
theorem everyIrqMasksThenReadsOneByte : Obligations.EveryIrqMasksThenReadsOneByte := by
  intro i s t h
  constructor
  · rintro rfl
    rw [exec_irq_of_idle (seq_of_exec_next h)] at h
    cases h
    obtain ⟨rest, htrace, hrest⟩ := irqDispatch_reads_nothing (sampleOf (nextValue s)) (handlerEntry s)
    exact ⟨rest, by rw [htrace, handlerEntry_trace], hrest⟩
  · intro hi
    obtain ⟨new, htrace, hout⟩ := exec_outputs h
    rw [htrace, List.countP_append,
      countP_isValueRead_eq_zero fun e he => outputs_reads_nothing (hout e he) hi, Nat.add_zero]

/-- Settles O39: the Invalid branch clears `idx` and `acc`. -/
theorem oneIrqRestoresTheInvariant : Obligations.OneIrqRestoresTheInvariant :=
  fun s hq hhigh => ⟨_, exec_irq_of_invalid hq hhigh, collected_clearGeneration (handlerEntry s)⟩

/-- Settles O40: the four samples assembled from position 0, and each found again at its place. -/
theorem fourSamplesMakeALittleEndianWord : Obligations.FourSamplesMakeALittleEndianWord := by
  intro s v0 v1 v2 v3 hidx hacc hq hnext
  obtain ⟨t, hrun, hidxt, hacct, hclient, hqt, -⟩ :=
    run_samples [v0, v1, v2, v3] (rest := []) hq (by simp [hidx]) hnext
  have hword : t.acc = assemble [sampleOf v0, sampleOf v1, sampleOf v2, sampleOf v3] := by
    simpa [hidx, hacc] using hacct
  have hbyte (p : Fin 4) : byteAt t.acc p = [sampleOf v0, sampleOf v1, sampleOf v2, sampleOf v3][p] := by
    rw [hword]
    exact byteAt_assemble p.isLt (bs := [_, _, _, _]) p.isLt
  refine ⟨t, hrun, BitVec.eq_of_toNat_eq (by simpa [hidx] using hidxt), ?_,
    ⟨hbyte 0, hbyte 1, hbyte 2, hbyte 3⟩, hclient, hqt⟩
  rw [hword, assemble_four]
  rfl

/-- Settles O42: the call of the client, the draws, and the end of the callback. -/
theorem deliveryNetEffect : Obligations.DeliveryNetEffect := by
  intro s c n k hready hc hq hnext
  have hcall := run_present (n + 1) hnext decode_irqWord (exec_irq_of_registered hq hready hc)
  obtain ⟨u, hdraws, hqu, hclient, hnextu, henv, hnone, hsome, htrace⟩ :=
    run_draws_of_ready n (rest := [.present (encode (.ret k))])
      (s := enterCallback c (handlerEntry { s with agenda := _ })) (enterCallback_seq c _)
      (by simpa using hready) (by rw [enterCallback_agenda, handlerEntry_agenda])
  have hret := run_present 0 hnextu (decode_encode (.ret k)) (exec_ret_of_deliver k hqu)
  refine ⟨_, hcall.trans ((run_append n 1 hdraws).trans hret), ?_⟩
  have hclientu : u.client = some c := by simpa [hc] using hclient
  have hvalue (moves : List Move) : nextValue { s with agenda := moves } = nextValue s := rfl
  cases k <;> simpa [hclientu, henv, htrace, hvalue] using And.intro hnone hsome

/-- Settles O17, for each signal and sequencer state. -/
theorem retRearmsOnMoreOnly : Obligations.RetRearmsOnMoreOnly := by
  intro s
  refine ⟨fun hq => ?_, fun hq => exec_ret_of_deliver .done hq, fun hq k => exec_ret_of_idle k hq⟩
  rw [exec_ret_of_deliver .more hq, afterCallback_more, startRng_eq]
  rfl

end Sys2Proof.Proofs
end

section
/-! The words that leave the block and the resets of `idx` and `acc` (41_delivery_iterator.md R100, R103). -/

namespace Sys2Proof.Machine

theorem exec_draw_of_idle {s : State} (h : s.seq = .idle) : exec .draw s = .refused .drawOutsideCallback := by
  simp [exec, execDraw, h]

/-- An operation that yields a word is a draw in the Ready class, and the word is the accumulator. -/
theorem draw_of_exec_yields {i : Instr} {s t : State} {w : Word} {new : List Event} (h : exec i s = .next t)
    (htrace : t.trace = s.trace ++ new) (hyield : .yield (some w) ∈ new) :
    i = .draw ∧ s.idx = 4#3 ∧ w = s.acc := by
  obtain ⟨new', htrace', hout⟩ := exec_outputs h
  obtain rfl : new = new' := List.append_cancel_left (htrace.symm.trans htrace')
  exact outputs_yield_some (hout _ hyield)

/-- From `s` to `t` the index or the accumulator went to zero. -/
def Clears (s t : State) : Prop :=
  (t.idx = 0#3 ∧ s.idx ≠ 0#3) ∨ (t.acc = 0#32 ∧ s.acc ≠ 0#32)

theorem not_clears_of_eq {s t : State} (hidx : t.idx = s.idx) (hacc : t.acc = s.acc) : ¬ Clears s t := by
  simp [Clears, hidx, hacc]

/-- The counter moves on without wrapping, and an OR clears no bit (40_interrupt_handler.md R82). -/
theorem not_clears_accumulate (b : Byte) {s : State} (hlow : s.idx ≤ 3#3) : ¬ Clears s (accumulate b s) := by
  rintro (⟨hidx, -⟩ | ⟨hacc, hne⟩)
  · have hnext : (s.idx + 1#3).toNat = s.idx.toNat + 1 := index_add_one_toNat hlow
    rw [← accumulate_idx b, hidx] at hnext
    simp at hnext
  · rw [accumulate_acc, BitVec.or_eq_zero_iff] at hacc
    exact hne hacc.1

/-- With `P_NOCLIENT_RESET` false the Invalid branch alone of an IRQ clears (R85, R86). -/
theorem invalid_of_irqDispatch_clears {b : Byte} {s : State} (hkeep : s.noClientReset = false)
    (hclear : Clears s (irqDispatch b s)) : 5#3 ≤ s.idx := by
  rcases irqDispatch_cases b s with ⟨hlow, h⟩ | ⟨c, _, _, h⟩ | ⟨_, _, _, h⟩ |
    ⟨⟨_, _, hreset⟩ | hhigh, h⟩ <;> rw [h] at hclear
  · exact absurd hclear (not_clears_accumulate b hlow)
  · exact absurd hclear (not_clears_of_eq rfl rfl)
  · exact absurd hclear (not_clears_of_eq rfl rfl)
  · exact absurd (hkeep.symm.trans hreset) Bool.false_ne_true
  · exact hhigh

theorem draw_or_recovery_of_exec_clears {i : Instr} {s t : State} (h : exec i s = .next t)
    (hkeep : s.noClientReset = false) (hclear : Clears s t) : i = .draw ∨ (i = .irq ∧ 5#3 ≤ s.idx) := by
  rcases exec_next_cases h with ⟨hi, _, rfl⟩ | ⟨_, _, rfl⟩ | ⟨cid, _, _, rfl⟩ | ⟨hi, _, _⟩ |
    ⟨_, _, rfl⟩ | ⟨_, _, rfl⟩
  · have hentry : Clears (handlerEntry s) (irqDispatch (sampleOf (nextValue s)) (handlerEntry s)) := by
      simpa [Clears] using hclear
    have hhigh := invalid_of_irqDispatch_clears (by simpa using hkeep) hentry
    exact .inr ⟨hi, by simpa using hhigh⟩
  · exact absurd hclear (not_clears_of_eq rfl rfl)
  · exact absurd hclear (not_clears_of_eq rfl rfl)
  · exact .inl hi
  · exact absurd hclear (not_clears_of_eq rfl rfl)
  · exact absurd hclear (not_clears_of_eq rfl rfl)

end Sys2Proof.Machine
end

section
/-! The statements about the delivery iterator (41_delivery_iterator.md). -/

namespace Sys2Proof.Proofs

open Sys2Proof.Machine Sys2Proof.Safety

/-- Settles O30: of the operations a draw alone outputs a word, and it and the Invalid branch alone clear;
a move without an operation does neither. -/
theorem onlyADrawDeliversAndClears : Obligations.OnlyADrawDeliversAndClears := by
  intro m s t h
  rcases takeMove_next_operation h with ⟨i, hop, hx⟩ | ⟨_, hblock, hsame⟩
  · refine ⟨fun w new htrace hyield => ?_, fun hkeep hclear => ?_⟩
    · obtain ⟨rfl, hready, hw⟩ := draw_of_exec_yields hx htrace hyield
      rw [exec_draw_of_ready (seq_of_exec_next hx) hready] at hx
      cases hx
      exact ⟨hop, hready, hw, rfl, rfl⟩
    · rcases draw_or_recovery_of_exec_clears hx hkeep hclear with rfl | ⟨rfl, hhigh⟩
      · exact .inl hop
      · exact .inr ⟨hop, hhigh⟩
  · obtain ⟨hidx, hacc, -, -⟩ := blockOf_eq_iff.mp hblock
    refine ⟨fun w new htrace hyield => ?_, fun _ hclear => absurd hclear (not_clears_of_eq hidx hacc)⟩
    obtain rfl : new = [] := List.self_eq_append_right.mp (hsame.symm.trans htrace)
    cases hyield

/-- Settles O16, at `idx` 4, at every other `idx`, and outside a callback. -/
theorem drawYieldsTheWordOnlyWhenReady : Obligations.DrawYieldsTheWordOnlyWhenReady :=
  fun _ => ⟨exec_draw_of_ready, exec_draw_of_empty, exec_draw_of_idle⟩

end Sys2Proof.Proofs
end

section
/-! The trace and the environment of an operation in three parts: the disable sequence of an IRQ
(42_control_surface.md R114), what only reads, calls or answers, and the start sequence (R112). -/

namespace Sys2Proof.Machine

open Sys2Proof.Safety

/-- A register write or a controller primitive. -/
def isControl : Event → Bool
  | .wr _ _ => true
  | .ctl _ => true
  | .rd _ _ => false
  | .cb _ => false
  | .yield _ => false

/-- The event is none of the four accesses of `StartRng()` (R112). -/
def StartsNothing (e : Event) : Prop :=
  e ≠ .wr .eventValrdy 0#32 ∧ e ≠ .ctl .enable ∧ e ≠ .wr .intenset Config.valrdyMask ∧ isStart e = false

/-- The event is no part of `DisableInterrupts()` (R114). -/
def MasksNothing (e : Event) : Prop :=
  e ≠ .ctl .disable ∧ e ≠ .ctl .clearPend ∧ ∀ v, e ≠ .wr .intenclr v

theorem startsNothing_of_not_control {e : Event} (h : isControl e = false) : StartsNothing e := by
  cases e with
  | wr r v => cases h
  | ctl op => cases h
  | rd r v => simp [StartsNothing, isStart]
  | cb c => simp [StartsNothing, isStart]
  | yield r => simp [StartsNothing, isStart]

theorem masksNothing_of_not_control {e : Event} (h : isControl e = false) : MasksNothing e := by
  cases e with
  | wr r v => cases h
  | ctl op => cases h
  | rd r v => simp [MasksNothing]
  | cb c => simp [MasksNothing]
  | yield r => simp [MasksNothing]

theorem maskTrace_starts_nothing : ∀ e ∈ maskTrace, StartsNothing e := by
  simp [maskTrace, StartsNothing, isStart]

theorem armTrace_masks_nothing : ∀ e ∈ armTrace, MasksNothing e := by
  simp [armTrace, MasksNothing]

/-- The call of an IRQ: to the registered client, in the Ready class (40_interrupt_handler.md R84). -/
def callTrace (s : State) : List Event :=
  if s.idx = 4#3 then (s.client.map Event.cb).toList else []

/-- The disable sequence, which IRQ alone makes. -/
def maskPart (i : Instr) : List Event :=
  if i = .irq then maskTrace else []

/-- What an operation outputs between the two sequences. -/
def middlePart (i : Instr) (s : State) : List Event :=
  match i with
  | .irq => .rd .value (nextValue s) :: callTrace s
  | .draw => [.yield (if s.idx = 4#3 then some s.acc else none)]
  | .get => []
  | .setclient _ => []
  | .ret _ => []

/-- The start sequence, where the operation ends with the source enabled again. -/
def startPart (i : Instr) (s : State) : List Event :=
  if rearms i s then armTrace else []

theorem rearms_iff (i : Instr) (s : State) :
    rearms i s = true ↔ i = .get ∨ i = .ret .more ∨ (i = .irq ∧ s.idx ≤ 3#3) := by
  cases i <;> simp [rearms]

theorem middlePart_not_control {i : Instr} {s : State} : ∀ e ∈ middlePart i s, isControl e = false := by
  cases i with
  | irq =>
    simp only [middlePart, callTrace]
    cases s.client <;> split <;> simp [isControl]
  | draw => simp [middlePart, isControl]
  | get => simp [middlePart]
  | setclient cid => simp [middlePart]
  | ret k => simp [middlePart]

theorem maskPart_starts_nothing {i : Instr} : ∀ e ∈ maskPart i, StartsNothing e := by
  rw [maskPart]
  split
  · exact maskTrace_starts_nothing
  · simp

theorem startPart_masks_nothing {i : Instr} {s : State} : ∀ e ∈ startPart i s, MasksNothing e := by
  rw [startPart]
  split
  · exact armTrace_masks_nothing
  · simp

/-- The four accesses of a start stand in the start sequence only. -/
theorem beforeStart_starts_nothing {i : Instr} {s : State} :
    ∀ e ∈ maskPart i ++ middlePart i s, StartsNothing e :=
  List.forall_mem_append.mpr
    ⟨maskPart_starts_nothing, fun e he => startsNothing_of_not_control (middlePart_not_control e he)⟩

/-- The three accesses of a disabling stand in the disable sequence only. -/
theorem afterMask_masks_nothing {i : Instr} {s : State} :
    ∀ e ∈ middlePart i s ++ startPart i s, MasksNothing e :=
  List.forall_mem_append.mpr
    ⟨fun e he => masksNothing_of_not_control (middlePart_not_control e he), startPart_masks_nothing⟩

theorem countP_isStart_eq_zero {new : List Event} (h : ∀ e ∈ new, StartsNothing e) :
    new.countP isStart = 0 := by
  refine List.countP_eq_zero.mpr fun e he => ?_
  obtain ⟨-, -, -, hstart⟩ := h e he
  simp [hstart]

theorem irqDispatch_trace (b : Byte) (s : State) :
    (irqDispatch b s).trace = s.trace ++ callTrace s ++ startPart .irq s := by
  rcases irqDispatch_cases b s with ⟨hlow, h⟩ | ⟨c, hready, hclient, h⟩ | ⟨hready, hclient, _, h⟩ |
    ⟨⟨hready, hclient, _⟩ | hhigh, h⟩ <;> rw [h]
  · have hne : s.idx ≠ 4#3 := by bv_omega
    simp [callTrace, startPart, rearms, hlow, hne]
  · simp [callTrace, startPart, rearms, hready, hclient]
  · simp [callTrace, startPart, rearms, hready, hclient]
  · simp [callTrace, startPart, rearms, hready, hclient]
  · have hlow : ¬ s.idx ≤ 3#3 := by bv_omega
    have hne : s.idx ≠ 4#3 := by bv_omega
    simp [callTrace, startPart, rearms, hlow, hne]

theorem drawOnce_trace (s : State) : (drawOnce s).trace = s.trace ++ middlePart .draw s := by
  rcases drawOnce_cases s with ⟨hidx, h⟩ | ⟨hidx, h⟩ <;> simp [h, middlePart, hidx]

/-- A performed operation outputs its three parts, in this order, and nothing else. -/
theorem exec_trace {i : Instr} {s t : State} (h : exec i s = .next t) :
    t.trace = s.trace ++ maskPart i ++ middlePart i s ++ startPart i s := by
  rcases exec_next_cases h with ⟨rfl, _, rfl⟩ | ⟨rfl, _, rfl⟩ | ⟨cid, rfl, _, rfl⟩ | ⟨rfl, _, rfl⟩ |
    ⟨rfl, _, rfl⟩ | ⟨rfl, _, rfl⟩
  · rw [irqDispatch_trace]
    simp [maskPart, middlePart, callTrace, startPart, rearms]
  · simp [maskPart, middlePart, startPart, rearms]
  · simp [maskPart, middlePart, startPart, rearms]
  · rw [drawOnce_trace]
    simp [maskPart, startPart, rearms]
  · simp [maskPart, middlePart, startPart, rearms]
  · simp [maskPart, middlePart, startPart, rearms]

/-- Where an operation starts generation, the environment is armed, after being masked if it is an IRQ
(60_exceptions.md R143). -/
theorem exec_env_of_rearms {i : Instr} {s t : State} (h : exec i s = .next t) (hstart : rearms i s = true) :
    t.env = armedEnv (if i = .irq then maskedEnv s.env else s.env) := by
  rcases (rearms_iff i s).mp hstart with rfl | rfl | ⟨rfl, hlow⟩
  · rw [exec_get_of_idle (seq_of_exec_next h)] at h
    cases h
    simp
  · rw [exec_ret_of_deliver .more (seq_of_exec_next h)] at h
    cases h
    simp
  · rw [exec_irq_of_collecting (seq_of_exec_next h) hlow] at h
    cases h
    simp

end Sys2Proof.Machine
end

section
/-! GET and SETCLIENT in each sequencer state, several GETs in a row, and the outputs of the two symmetric
helpers (42_control_surface.md R110, R111, R113 to R115). -/

namespace Sys2Proof.Machine

open Sys2Proof.Safety

theorem exec_get_of_deliver {s : State} (h : s.seq = .deliver) : exec .get s = .refused .getDuringCallback := by
  simp [exec, execGet, h]

theorem exec_setclient_of_deliver {s : State} (cid : ClientId) (h : s.seq = .deliver) :
    exec (.setclient cid) s = .refused .setClientDuringCallback := by
  simp [exec, execSetclient, h]

/-- The event word of GET (30_encoding.md R63). -/
theorem decode_getWord : decode 0x2000#16 = .ok .get := rfl

/-- Arming an armed environment changes nothing (60_exceptions.md R143). -/
@[simp] theorem armedEnv_armedEnv (e : EnvState) : armedEnv (armedEnv e) = armedEnv e := rfl

theorem run_gets (n : Nat) {s : State} {rest : List Move} (hq : s.seq = .idle)
    (hnext : s.agenda = List.replicate n (.present 0x2000#16) ++ rest) :
    Host.Core.run Sys2Proof.core n s =
      .next { s with
        agenda := rest
        trace := s.trace ++ (List.replicate n armTrace).flatten
        env := if n = 0 then s.env else armedEnv s.env } := by
  induction n generalizing s with
  | zero => simp [run_zero, ← show s.agenda = rest by simpa using hnext]
  | succ n ih =>
    have hget := run_present n hnext decode_getWord (exec_get_of_idle hq)
    have hothers := ih (s := startRng { s with agenda := _ }) hq rfl
    rw [hget.trans hothers, startRng_eq]
    simp [List.replicate_succ]

theorem enableInterrupts_trace (s : State) :
    (enableInterrupts s).trace = s.trace ++ [.ctl .enable, .wr .intenset Config.valrdyMask] := by
  simp [enableInterrupts, memWrite, ctl]

theorem disableInterrupts_trace (s : State) : (disableInterrupts s).trace = s.trace ++ maskTrace := by
  rw [disableInterrupts_eq]

end Sys2Proof.Machine
end

section
/-! The statements about the control surface (42_control_surface.md). -/

namespace Sys2Proof.Proofs

open Sys2Proof.Machine Sys2Proof.Safety

/-- Settles O24: an operation's outputs end in the start sequence where it re-arms, and no access of that
sequence stands before it. -/
theorem generationStartsFromThreePlacesAlike : Obligations.GenerationStartsFromThreePlacesAlike := by
  intro i s t h
  have htrace := exec_trace h
  rw [← rearms_iff]
  refine ⟨fun hstart => ⟨maskPart i ++ middlePart i s, ?_,
    countP_isStart_eq_zero beforeStart_starts_nothing, exec_env_of_rearms h hstart⟩,
    fun hnone => ⟨maskPart i ++ middlePart i s, ?_, beforeStart_starts_nothing⟩⟩
  · simpa [startPart, hstart] using htrace
  · simpa [startPart, hnone] using htrace

/-- Settles O25: an operation's outputs begin with the disable sequence if it is an IRQ, and no access of
that sequence stands after it. -/
theorem disablingIsTheFirstActionOfIrqAlone : Obligations.DisablingIsTheFirstActionOfIrqAlone := by
  intro i s t h
  have htrace := exec_trace h
  refine ⟨fun hi => ⟨middlePart i s ++ startPart i s, ?_, afterMask_masks_nothing⟩,
    fun hi => ⟨middlePart i s ++ startPart i s, ?_, afterMask_masks_nothing⟩⟩
  · simpa [maskPart, maskTrace, hi] using htrace
  · simpa [maskPart, hi] using htrace

/-- Settles O43, by induction on the number of GETs. -/
theorem repeatedGetsLeaveTheBlockAlone : Obligations.RepeatedGetsLeaveTheBlockAlone :=
  fun n _ hq hnext => run_gets n hq (by simpa using hnext)

/-- Settles O54: INTEN is no named access, and each helper makes one register write. -/
theorem intenIsNeverAccessed : Obligations.IntenIsNeverAccessed := by
  refine ⟨fun m s t h new htrace v => ?_, fun s =>
    ⟨⟨_, enableInterrupts_trace s, by simp, by simp⟩,
      ⟨_, disableInterrupts_trace s, by simp [maskTrace], by simp [maskTrace]⟩⟩⟩
  obtain ⟨new', htrace', hnamed, -⟩ := traceGrowsByTheNamedAccessesOnly m s t h
  obtain rfl : new = new' := List.append_cancel_left (htrace.symm.trans htrace')
  refine ⟨fun hread => ?_, fun hwrite => ?_⟩
  · obtain ⟨-, hne, -⟩ := hnamed _ hread
    exact hne v rfl
  · obtain ⟨-, -, hne⟩ := hnamed _ hwrite
    exact hne v rfl

/-- Settles O18: GET is one start of generation, in IDLE only. -/
theorem getArmsAndWritesNoRegister : Obligations.GetArmsAndWritesNoRegister :=
  fun s => ⟨fun hq => by rw [exec_get_of_idle hq, startRng_eq], exec_get_of_deliver⟩

/-- Settles O19: SETCLIENT is one registration, in IDLE only. -/
theorem setclientReplacesTheRegistration : Obligations.SetclientReplacesTheRegistration :=
  fun _ cid => ⟨exec_setclient_of_idle cid, exec_setclient_of_deliver cid⟩

end Sys2Proof.Proofs
end

section
/-! The environment's moves: when each is enabled, what it then does, and what a move without an operation
leaves of the environment (60_exceptions.md R144). -/

namespace Sys2Proof.Machine

open Sys2Proof.Safety

theorem moveEnabled_pend_iff (s : State) :
    moveEnabled .pend s = true ↔ s.env.evt = true ∧ s.env.inten = true := by
  simp [moveEnabled]

theorem moveEnabled_fire_iff (s : State) :
    moveEnabled .fire s = true ↔ s.env.ctlPend = true ∧ s.env.ctlEn = true ∧ s.seq = .idle := by
  simp [moveEnabled, and_assoc]

theorem takeMove_of_enabled {m : Move} {s : State} (h : moveEnabled m s = true) :
    takeMove m s = performMove m s :=
  if_pos h

theorem takeMove_of_disabled {m : Move} {s : State} (h : moveEnabled m s = false) :
    takeMove m s = .refused (.moveDisabled m) :=
  if_neg (by simp [h])

theorem takeMove_sample_of_running {s : State} (hrun : s.env.run = true) :
    takeMove .sample s = .next (envSample s) :=
  takeMove_of_enabled (m := .sample) hrun

theorem takeMove_pend_of_open {s : State} (hevt : s.env.evt = true) (hinten : s.env.inten = true) :
    takeMove .pend s = .next (envPend s) :=
  takeMove_of_enabled ((moveEnabled_pend_iff s).mpr ⟨hevt, hinten⟩)

/-- E-FIRE is one presentation of IRQ. -/
theorem takeMove_fire_of_pending {s : State} (hpend : s.env.ctlPend = true) (hctlEn : s.env.ctlEn = true)
    (hq : s.seq = .idle) : takeMove .fire s = exec .irq s := by
  rw [takeMove_of_enabled ((moveEnabled_fire_iff s).mpr ⟨hpend, hctlEn, hq⟩)]
  exact present_ok s decode_irqWord

/-- Every way in which a move without an operation is performed. -/
theorem takeMove_next_of_no_operation {m : Move} {s t : State} (h : takeMove m s = .next t)
    (hop : operationOf m = none) :
    (∃ v, m = .supply v ∧ t = supplyValue v s) ∨
    (m = .sample ∧ s.env.run = true ∧ t = envSample s) ∨
    (m = .pend ∧ s.env.evt = true ∧ s.env.inten = true ∧ t = envPend s) := by
  rcases takeMove_next_cases h with ⟨w, i, rfl, hd, _⟩ | ⟨rfl, _⟩ | hquiet
  · rw [operationOf, hd] at hop
    cases hop
  · cases hop
  · exact hquiet

/-- Without an operation neither gate moves, and a set event or pending flag stays set. -/
theorem gates_of_no_operation {m : Move} {s t : State} (h : takeMove m s = .next t)
    (hop : operationOf m = none) :
    t.env.inten = s.env.inten ∧ t.env.ctlEn = s.env.ctlEn ∧
      (s.env.evt = true → t.env.evt = true) ∧ (s.env.ctlPend = true → t.env.ctlPend = true) := by
  rcases takeMove_next_of_no_operation h hop with ⟨v, _, rfl⟩ | ⟨_, _, rfl⟩ | ⟨_, _, _, rfl⟩
  · exact ⟨rfl, rfl, id, id⟩
  · exact ⟨rfl, rfl, fun _ => rfl, id⟩
  · exact ⟨rfl, rfl, id, fun _ => rfl⟩

/-- A running generation goes on or has produced its byte. -/
theorem running_or_produced_of_no_operation {m : Move} {s t : State} (h : takeMove m s = .next t)
    (hop : operationOf m = none) (hs : s.env.run = true ∨ s.env.evt = true) :
    t.env.run = true ∨ t.env.evt = true := by
  rcases takeMove_next_of_no_operation h hop with ⟨v, _, rfl⟩ | ⟨_, _, rfl⟩ | ⟨_, _, _, rfl⟩
  · exact hs
  · exact .inr rfl
  · exact hs

/-- Where an operation starts nothing, the environment is masked if it is an IRQ and else left alone
(60_exceptions.md R133, R143). -/
theorem exec_env_of_not_rearms {i : Instr} {s t : State} (h : exec i s = .next t)
    (hstop : rearms i s = false) : t.env = if i = .irq then maskedEnv s.env else s.env := by
  rcases exec_next_cases h with ⟨rfl, _, rfl⟩ | ⟨rfl, _, _⟩ | ⟨cid, rfl, _, rfl⟩ | ⟨rfl, _, rfl⟩ |
    ⟨rfl, _, _⟩ | ⟨rfl, _, rfl⟩
  · rcases irqDispatch_cases (sampleOf (nextValue s)) (handlerEntry s) with ⟨hlow, _⟩ | ⟨_, _, _, ht⟩ |
      ⟨_, _, _, ht⟩ | ⟨_, ht⟩
    · rw [handlerEntry_idx] at hlow
      simp [rearms, hlow] at hstop
    · simp [ht]
    · simp [ht]
    · simp [ht]
  · cases hstop
  · simp
  · simp
  · cases hstop
  · simp

/-- GET and RET More output the start sequence and nothing else (42_control_surface.md R112). -/
theorem exec_trace_of_start {i : Instr} {s t : State} (h : exec i s = .next t)
    (hi : i = .get ∨ i = .ret .more) : t.trace = s.trace ++ armTrace := by
  have htrace := exec_trace h
  rcases hi with rfl | rfl <;> simpa [maskPart, middlePart, startPart, rearms] using htrace

/-- Of the operations IRQ and DRAW alone write `idx` or `acc` (60_exceptions.md R139). -/
theorem exec_idx_acc {i : Instr} {s t : State} (h : exec i s = .next t) (hirq : i ≠ .irq) (hdraw : i ≠ .draw) :
    t.idx = s.idx ∧ t.acc = s.acc := by
  rcases exec_next_cases h with ⟨hi, _⟩ | ⟨_, _, rfl⟩ | ⟨cid, _, _, rfl⟩ | ⟨hi, _⟩ | ⟨_, _, rfl⟩ | ⟨_, _, rfl⟩
  · exact absurd hi hirq
  · exact ⟨rfl, rfl⟩
  · exact ⟨rfl, rfl⟩
  · exact absurd hi hdraw
  · exact ⟨rfl, rfl⟩
  · exact ⟨rfl, rfl⟩

end Sys2Proof.Machine
end

section
/-! The callback: the source is masked and the registered client was called last (60_exceptions.md R137,
95_test_vectors.md Q5). -/

namespace Sys2Proof.Safety

open Sys2Proof.Machine

theorem deliveryMasked_of_idle {s : State} (h : s.seq = .idle) : DeliveryMasked s :=
  fun hq => absurd (h.symm.trans hq) (by decide)

/-- A callback begins in the Ready class, behind the handler's entry. -/
theorem deliveryMasked_enterCallback {s : State} {c : ClientId} (hready : s.idx = 4#3)
    (hclient : s.client = some c) : DeliveryMasked (enterCallback c (handlerEntry s)) := by
  intro _
  refine ⟨by simp [hclient], ?_, by simp [maskedEnv], by simp [maskedEnv], by simp [maskedEnv],
    .inl (by simpa using hready)⟩
  simp [hclient, isStart, isCallback]

theorem deliveryMasked_exec_irq {s t : State} (h : exec .irq s = .next t) : DeliveryMasked t := by
  have hq : s.seq = .idle := seq_of_exec_next h
  rw [exec_irq_of_idle hq] at h
  cases h
  rcases irqDispatch_cases (sampleOf (nextValue s)) (handlerEntry s) with ⟨_, ht⟩ | ⟨c, hready, hclient, ht⟩ |
    ⟨_, _, _, ht⟩ | ⟨_, ht⟩ <;> rw [ht]
  · exact deliveryMasked_of_idle (by simpa using hq)
  · exact deliveryMasked_enterCallback (by simpa using hready) (by simpa using hclient)
  · exact deliveryMasked_of_idle (by simpa using hq)
  · exact deliveryMasked_of_idle (by simpa using hq)

/-- A draw is no call and no start, and takes the word whole or finds it taken. -/
theorem deliveryMasked_drawOnce {s : State} (hs : DeliveryMasked s) : DeliveryMasked (drawOnce s) := by
  intro hq
  obtain ⟨hclient, hlast, hinten, hctlEn, hctlPend, hword⟩ := hs (by simpa using hq)
  rcases drawOnce_cases s with ⟨_, ht⟩ | ⟨hempty, ht⟩ <;> rw [ht]
  · exact ⟨hclient, by simpa [isStart, isCallback] using hlast, hinten, hctlEn, hctlPend, .inr ⟨rfl, rfl⟩⟩
  · exact ⟨hclient, by simpa [isStart, isCallback] using hlast, hinten, hctlEn, hctlPend,
      .inr (hword.resolve_left hempty)⟩

theorem deliveryMasked_exec {i : Instr} {s t : State} (h : exec i s = .next t) (hs : DeliveryMasked s) :
    DeliveryMasked t := by
  rcases exec_next_cases h with ⟨rfl, _, _⟩ | ⟨_, hq, rfl⟩ | ⟨cid, _, hq, rfl⟩ | ⟨_, _, rfl⟩ |
    ⟨_, _, rfl⟩ | ⟨_, _, rfl⟩
  · exact deliveryMasked_exec_irq h
  · exact deliveryMasked_of_idle hq
  · exact deliveryMasked_of_idle hq
  · exact deliveryMasked_drawOnce hs
  · exact deliveryMasked_of_idle rfl
  · exact deliveryMasked_of_idle rfl

/-- E-PEND has no place in a callback: the peripheral's gate is closed. -/
theorem deliveryMasked_envPend {s : State} (hs : DeliveryMasked s) (hinten : s.env.inten = true) :
    DeliveryMasked (envPend s) := by
  intro hq
  obtain ⟨-, -, hclosed, -⟩ := hs hq
  exact absurd (hinten.symm.trans hclosed) (by decide)

theorem deliveryMasked_takeMove {m : Move} {s t : State} (h : takeMove m s = .next t)
    (hs : DeliveryMasked s) : DeliveryMasked t := by
  rcases takeMove_next_cases h with ⟨w, i, _, _, hx⟩ | ⟨_, _, _, _, hx⟩ | ⟨v, _, rfl⟩ | ⟨_, _, rfl⟩ |
    ⟨_, _, hinten, rfl⟩
  · exact deliveryMasked_exec hx hs
  · exact deliveryMasked_exec hx hs
  · exact hs
  · exact hs
  · exact deliveryMasked_envPend hs hinten

end Sys2Proof.Safety
end

section
/-! The closed account: IRQ by E-FIRE only, and values of one byte (60_exceptions.md R143, R144). -/

namespace Sys2Proof.Safety

open Sys2Proof.Machine

/-- No word the closed account presents spells IRQ. -/
theorem ne_irq_of_closed_present {w : EventWord} {i : Instr} (hm : closedMove (.present w) = true)
    (hd : decode w = .ok i) : i ≠ .irq := by
  rintro rfl
  obtain rfl := decode_eq_ok_iff.mp hd
  revert hm
  decide

theorem closedAccount_uncons {s : State} {m : Move} {rest : List Move} (hs : ClosedAccount s)
    (hnext : s.agenda = m :: rest) : closedMove m = true ∧ ClosedAccount { s with agenda := rest } := by
  obtain ⟨hmoves, hvalue⟩ := hs
  rw [hnext, List.forall_mem_cons] at hmoves
  obtain ⟨hm, hrest⟩ := hmoves
  exact ⟨hm, hrest, hvalue⟩

theorem closedAccount_exec {i : Instr} {s t : State} (h : exec i s = .next t) (hs : ClosedAccount s) :
    ClosedAccount t := by
  rcases exec_next_cases h with ⟨_, _, rfl⟩ | ⟨_, _, rfl⟩ | ⟨cid, _, _, rfl⟩ | ⟨_, _, rfl⟩ |
    ⟨_, _, rfl⟩ | ⟨_, _, rfl⟩
  · obtain ⟨hmoves, -⟩ := hs
    exact ⟨by simpa using hmoves, by simp⟩
  · exact hs
  · exact hs
  · simpa [ClosedAccount] using hs
  · exact hs
  · exact hs

theorem closedAccount_takeMove {m : Move} {s t : State} (hm : closedMove m = true)
    (h : takeMove m s = .next t) (hs : ClosedAccount s) : ClosedAccount t := by
  rcases takeMove_next_cases h with ⟨w, i, _, _, hx⟩ | ⟨_, _, _, _, hx⟩ | ⟨v, rfl, rfl⟩ | ⟨_, _, rfl⟩ |
    ⟨_, _, _, rfl⟩
  · exact closedAccount_exec hx hs
  · exact closedAccount_exec hx hs
  · obtain ⟨hmoves, -⟩ := hs
    exact ⟨hmoves, hm⟩
  · exact hs
  · exact hs

/-! Its invariant: the starts pay for the reads (60_exceptions.md R144, 95_test_vectors.md Q9). -/

theorem countP_isValueRead_maskTrace : maskTrace.countP isValueRead = 0 := rfl
theorem countP_isStart_maskTrace : maskTrace.countP isStart = 0 := rfl
theorem countP_isValueRead_armTrace : armTrace.countP isValueRead = 0 := rfl
theorem countP_isStart_armTrace : armTrace.countP isStart = 1 := rfl

/-- A start pays for the gate it opens. -/
theorem closedInv_startRng {s : State} (hq : s.seq = .idle) (hs : ClosedInv s) : ClosedInv (startRng s) := by
  obtain ⟨-, -, -, -, hcount⟩ := hs
  refine ⟨by simp [armedEnv], by simp [armedEnv], by simp [armedEnv], by simp [hq], ?_⟩
  simpa [armedEnv, countP_isValueRead_armTrace, countP_isStart_armTrace] using Nat.le_of_add_right_le hcount

/-- The read of the handler's entry is paid for by the gate it closes. -/
theorem closedInv_handlerEntry {s : State} (hopen : s.env.ctlEn = true) (hs : ClosedInv s) :
    ClosedInv (handlerEntry s) := by
  obtain ⟨-, -, hproduced, -, hcount⟩ := hs
  refine ⟨by simp [maskedEnv], by simp [maskedEnv], by simpa [maskedEnv] using hproduced,
    by simp [maskedEnv], ?_⟩
  simpa [maskedEnv, hopen, countP_isValueRead_maskTrace, countP_isStart_maskTrace, isValueRead, isStart]
    using hcount

theorem closedInv_enterCallback {s : State} (c : ClientId) (hclosed : s.env.ctlEn = false)
    (hs : ClosedInv s) : ClosedInv (enterCallback c s) := by
  obtain ⟨hgates, hpend, hproduced, -, hcount⟩ := hs
  exact ⟨hgates, hpend, hproduced, fun _ => hclosed, by simpa [isValueRead, isStart] using hcount⟩

theorem closedInv_leaveCallback {s : State} (hs : ClosedInv s) : ClosedInv (leaveCallback s) := by
  obtain ⟨hgates, hpend, hproduced, -, hcount⟩ := hs
  exact ⟨hgates, hpend, hproduced, by simp, hcount⟩

theorem closedInv_irqDispatch (b : Byte) {s : State} (hq : s.seq = .idle) (hclosed : s.env.ctlEn = false)
    (hs : ClosedInv s) : ClosedInv (irqDispatch b s) := by
  rcases irqDispatch_cases b s with ⟨_, h⟩ | ⟨c, _, _, h⟩ | ⟨_, _, _, h⟩ | ⟨_, h⟩ <;> rw [h]
  · exact closedInv_startRng hq hs
  · exact closedInv_enterCallback c hclosed hs
  · exact hs
  · exact hs

theorem closedInv_drawOnce {s : State} (hs : ClosedInv s) : ClosedInv (drawOnce s) := by
  rcases drawOnce_cases s with ⟨_, h⟩ | ⟨_, h⟩ <;>
    simpa [h, ClosedInv, isValueRead, isStart] using hs

theorem closedInv_exec {i : Instr} {s t : State} (h : exec i s = .next t)
    (hopen : i = .irq → s.env.ctlEn = true) (hs : ClosedInv s) : ClosedInv t := by
  rcases exec_next_cases h with ⟨hi, hq, rfl⟩ | ⟨_, hq, rfl⟩ | ⟨cid, _, _, rfl⟩ | ⟨_, _, rfl⟩ |
    ⟨_, _, rfl⟩ | ⟨_, _, rfl⟩
  · exact closedInv_irqDispatch _ (by simpa using hq) (by simp [maskedEnv])
      (closedInv_handlerEntry (hopen hi) hs)
  · exact closedInv_startRng hq hs
  · exact hs
  · exact closedInv_drawOnce hs
  · exact closedInv_startRng (s := leaveCallback s) rfl (closedInv_leaveCallback hs)
  · exact closedInv_leaveCallback hs

theorem closedInv_envSample {s : State} (hs : ClosedInv s) : ClosedInv (envSample s) := by
  obtain ⟨hgates, hpend, -, hcallback, hcount⟩ := hs
  exact ⟨hgates, hpend, fun _ => rfl, hcallback, hcount⟩

theorem closedInv_envPend {s : State} (hinten : s.env.inten = true) (hs : ClosedInv s) :
    ClosedInv (envPend s) := by
  obtain ⟨hgates, -, hproduced, hcallback, hcount⟩ := hs
  exact ⟨hgates, fun _ => hgates.symm.trans hinten, hproduced, hcallback, hcount⟩

theorem closedInv_takeMove {m : Move} {s t : State} (hm : closedMove m = true)
    (h : takeMove m s = .next t) (hs : ClosedInv s) : ClosedInv t := by
  rcases takeMove_next_cases h with ⟨w, i, rfl, hd, hx⟩ | ⟨_, _, hctlEn, _, hx⟩ | ⟨v, _, rfl⟩ | ⟨_, _, rfl⟩ |
    ⟨_, _, hinten, rfl⟩
  · exact closedInv_exec hx (fun hi => absurd hi (ne_irq_of_closed_present hm hd)) hs
  · exact closedInv_exec hx (fun _ => hctlEn) hs
  · exact hs
  · exact closedInv_envSample hs
  · exact closedInv_envPend hinten hs

/-! Its reads (60_exceptions.md R143). -/

theorem oneByte_setWidth (b : Byte) : oneByte (b.setWidth 32) = true := by
  simp only [oneByte, beq_iff_eq]
  ext k hk
  simp

theorem eq_setWidth_of_oneByte {v : Word} (h : oneByte v = true) : v = (v.extractLsb' 0 8).setWidth 32 := by
  have hhigh : (v.extractLsb' 8 24).toNat = 0 := by simpa [oneByte, ← BitVec.toNat_inj] using h
  apply BitVec.eq_of_toNat_eq
  simp only [BitVec.extractLsb'_toNat, BitVec.toNat_setWidth, Nat.shiftRight_eq_div_pow] at hhigh ⊢
  omega

/-- A settled value is one byte by the account, a free one by its construction. -/
theorem oneByte_nextValue {s : State} (hvalue : s.valueIn.all oneByte = true) :
    oneByte (nextValue s) = true := by
  cases hv : s.valueIn with
  | some v => rw [nextValue_of_some hv]; simpa [hv] using hvalue
  | none => rw [nextValue_of_none hv]; exact oneByte_setWidth _

/-- The one read of the block is of VALUE and returns what the supply has next (20_memory.md R47). -/
theorem outputs_read {i : Instr} {s : State} {r : PeriphReg} {v : Word} (h : Outputs s i (.rd r v)) :
    r = .value ∧ v = nextValue s := by
  cases h with
  | mask h => simp [maskTrace] at h
  | arm h => simp [armTrace] at h
  | read => exact ⟨rfl, rfl⟩

end Sys2Proof.Safety
end

section
/-! Endless runs of the environment alone (60_exceptions.md R144, 70_reset_and_hazards.md R173). -/

namespace Sys2Proof.Safety

open Sys2Proof.Machine

theorem takeMove_of_isRun {moves : Nat → Option Move} {run : Nat → State} {k : Nat} {m : Move}
    (hrun : IsRun moves run) (hm : moves k = some m) : takeMove m (run k) = .next (run (k + 1)) := by
  have hk := hrun k
  rwa [hm] at hk

/-- No move of the run performs an operation. -/
def Undisturbed (moves : Nat → Option Move) : Prop :=
  ∀ k m, moves k = some m → operationOf m = none

/-- What no move without an operation ends holds for ever in an undisturbed run. -/
theorem holds_from_of_undisturbed {moves : Nat → Option Move} {run : Nat → State} {P : State → Prop}
    (hrun : IsRun moves run) (hquiet : Undisturbed moves)
    (hkeep : ∀ {m s t}, takeMove m s = .next t → operationOf m = none → P s → P t)
    {n : Nat} (hn : P (run n)) {k : Nat} (hk : n ≤ k) : P (run k) := by
  induction k, hk using Nat.le_induction with
  | base => exact hn
  | succ k _ ih =>
    cases hm : moves k with
    | none =>
      have hwait := hrun k
      rw [hm] at hwait
      exact hwait ▸ ih
    | some m => exact hkeep (takeMove_of_isRun hrun hm) (hquiet k m hm) ih

/-- IDLE with both gates open. -/
def IdleAndOpen (s : State) : Prop :=
  s.seq = .idle ∧ s.env.inten = true ∧ s.env.ctlEn = true

theorem idleAndOpen_of_no_operation {m : Move} {s t : State} (h : takeMove m s = .next t)
    (hop : operationOf m = none) (hs : IdleAndOpen s) : IdleAndOpen t := by
  obtain ⟨hq, hinten, hctlEn⟩ := hs
  obtain ⟨hinten', hctlEn', -⟩ := gates_of_no_operation h hop
  have hseq : t.seq = s.seq := by
    rcases takeMove_next_of_no_operation h hop with ⟨v, _, rfl⟩ | ⟨_, _, rfl⟩ | ⟨_, _, _, rfl⟩ <;> rfl
  exact ⟨hseq.trans hq, hinten'.trans hinten, hctlEn'.trans hctlEn⟩

theorem event_persists {m : Move} {s t : State} (h : takeMove m s = .next t)
    (hop : operationOf m = none) (hs : s.env.evt = true) : t.env.evt = true := by
  obtain ⟨-, -, hevt, -⟩ := gates_of_no_operation h hop
  exact hevt hs

theorem pending_persists {m : Move} {s t : State} (h : takeMove m s = .next t)
    (hop : operationOf m = none) (hs : s.env.ctlPend = true) : t.env.ctlPend = true := by
  obtain ⟨-, -, -, hpend⟩ := gates_of_no_operation h hop
  exact hpend hs

section

variable {moves : Nat → Option Move} {run : Nat → State}

/-- A started generation produces its byte: E-SAMPLE stays enabled until it happens. -/
theorem fair_event (hrun : IsRun moves run) (hfair : envFair moves run) (hquiet : Undisturbed moves)
    (hstart : (run 0).env.run = true) : ∃ n, (run n).env.evt = true := by
  by_contra hnever
  have hrunning : ∀ k, (run k).env.run = true := fun k =>
    (holds_from_of_undisturbed (P := fun s => s.env.run = true ∨ s.env.evt = true) hrun hquiet
      running_or_produced_of_no_operation (.inl hstart) (Nat.zero_le k)).resolve_right
      fun hevt => hnever ⟨k, hevt⟩
  obtain ⟨k, -, hsample⟩ := hfair .sample (by simp [envMoves]) 0 fun k _ => hrunning k
  have hnext : envSample (run k) = run (k + 1) :=
    Host.Outcome.next.inj ((takeMove_sample_of_running (hrunning k)).symm.trans (takeMove_of_isRun hrun hsample))
  exact hnever ⟨k + 1, hnext ▸ rfl⟩

/-- Behind an open peripheral gate the event becomes pending. -/
theorem fair_pending (hrun : IsRun moves run) (hfair : envFair moves run) (hquiet : Undisturbed moves)
    (hinten : ∀ k, (run k).env.inten = true) {n : Nat} (hevt : (run n).env.evt = true) :
    ∃ k, (run k).env.ctlPend = true := by
  have hset : ∀ k, n ≤ k → (run k).env.evt = true := fun k hk =>
    holds_from_of_undisturbed (P := fun s => s.env.evt = true) hrun hquiet event_persists hevt hk
  obtain ⟨k, hk, hpend⟩ := hfair .pend (by simp [envMoves]) n
    fun k hk => (moveEnabled_pend_iff _).mpr ⟨hset k hk, hinten k⟩
  have hnext : envPend (run k) = run (k + 1) :=
    Host.Outcome.next.inj
      ((takeMove_pend_of_open (hset k hk) (hinten k)).symm.trans (takeMove_of_isRun hrun hpend))
  exact ⟨k + 1, hnext ▸ rfl⟩

/-- In IDLE and behind open gates a pending event fires. -/
theorem fair_fire (hrun : IsRun moves run) (hfair : envFair moves run) (hquiet : Undisturbed moves)
    (hopen : ∀ k, IdleAndOpen (run k)) {n : Nat} (hpend : (run n).env.ctlPend = true) :
    ∃ k, moves k = some .fire := by
  obtain ⟨k, -, hfire⟩ := hfair .fire (by simp [envMoves]) n fun k hk => by
    obtain ⟨hq, -, hctlEn⟩ := hopen k
    have hset : (run k).env.ctlPend = true :=
      holds_from_of_undisturbed (P := fun s => s.env.ctlPend = true) hrun hquiet pending_persists hpend hk
    exact (moveEnabled_fire_iff _).mpr ⟨hset, hctlEn, hq⟩
  exact ⟨k, hfire⟩

end

end Sys2Proof.Safety
end

section
/-! The statements about the exceptions and the environment (60_exceptions.md). -/

namespace Sys2Proof.Proofs

open Sys2Proof.Machine Sys2Proof.Safety

/-- Settles O34: a callback begins masked and called, and ends with the only operation that unmasks in it. -/
theorem stepKeepsDeliveryMasked : Obligations.StepKeepsDeliveryMasked := by
  intro s t hs h
  rcases step_next_cases h with ⟨_, rfl⟩ | ⟨m, rest, _, hm⟩
  · exact hs
  · exact deliveryMasked_takeMove hm (s := { s with agenda := rest }) hs

/-- Settles O37: an IRQ, which is E-FIRE, spends the open gate that the last start paid for. -/
theorem stepKeepsTheClosedAccount : Obligations.StepKeepsTheClosedAccount := by
  intro s t ha hs h
  rcases step_next_cases h with ⟨_, rfl⟩ | ⟨m, rest, hnext, hm⟩
  · exact ⟨ha, hs⟩
  · obtain ⟨hclosed, ha'⟩ := closedAccount_uncons ha hnext
    exact ⟨closedAccount_takeMove hclosed hm ha',
      closedInv_takeMove hclosed hm (s := { s with agenda := rest }) hs⟩

/-- Settles O22: a move without an operation leaves the block alone, and so do the other three operations
with `idx` and `acc`. -/
theorem onlyInterruptContextWritesTheGenerationState :
    Obligations.OnlyInterruptContextWritesTheGenerationState := by
  intro m s t h hchange
  rcases takeMove_next_operation h with ⟨i, hop, hx⟩ | ⟨_, hblock, _⟩
  · by_cases hirq : i = .irq
    · exact ⟨i, hop, by rw [hirq]; rfl, .inl hirq⟩
    · by_cases hdraw : i = .draw
      · exact ⟨i, hop, by rw [hdraw]; rfl, .inr hdraw⟩
      · obtain ⟨hidx, hacc⟩ := exec_idx_acc hx hirq hdraw
        exact absurd hchange (by simp [hidx, hacc])
  · obtain ⟨hidx, hacc, -, -⟩ := blockOf_eq_iff.mp hblock
    exact absurd hchange (by simp [hidx, hacc])

/-- Settles O28: an operation arms, masks or leaves the environment, and every other move leaves the gates. -/
theorem gatesMoveByStartAndEntryOnly : Obligations.GatesMoveByStartAndEntryOnly := by
  intro m s t h
  rcases takeMove_next_operation h with ⟨i, hop, hx⟩ | ⟨hop, _, _⟩
  · rw [hop]
    refine ⟨fun j hj hstart => ?_, fun hj hstop => ?_, fun j hj hne hstop => ?_, fun hnone => by cases hnone⟩
    · obtain rfl := Option.some.inj hj
      rw [exec_env_of_rearms hx hstart]
      exact ⟨rfl, rfl, rfl, rfl, fun hi => by simp [hi, armedEnv, maskedEnv], fun hi => by simp [hi, armedEnv]⟩
    · obtain rfl := Option.some.inj hj
      rw [exec_env_of_not_rearms hx hstop]
      exact ⟨rfl, rfl, rfl, rfl, rfl⟩
    · obtain rfl := Option.some.inj hj
      rw [exec_env_of_not_rearms hx hstop, if_neg hne]
  · rw [hop]
    exact ⟨fun _ hj => (by cases hj), fun hj => (by cases hj), fun _ hj => (by cases hj),
      fun _ => gates_of_no_operation h hop⟩

/-- Settles O38: behind the closed gate there is no E-FIRE, and of the other operations a start alone opens it. -/
theorem closedGatesStayClosedUntilAStart : Obligations.ClosedGatesStayClosedUntilAStart := by
  intro s t ha hclosed h
  rcases step_next_cases h with ⟨_, rfl⟩ | ⟨m, rest, hnext, hm⟩
  · exact ⟨rfl, .inl hclosed⟩
  · obtain ⟨hmove, -⟩ := closedAccount_uncons ha hnext
    rcases takeMove_next_cases hm with ⟨w, i, rfl, hd, hx⟩ | ⟨_, _, hctlEn, _⟩ | ⟨v, _, rfl⟩ | ⟨_, _, rfl⟩ |
      ⟨_, _, _, rfl⟩
    · have hirq : i ≠ .irq := ne_irq_of_closed_present hmove hd
      obtain ⟨-, hreads⟩ := everyIrqMasksThenReadsOneByte i _ t hx
      refine ⟨hreads hirq, ?_⟩
      cases hstart : rearms i { s with agenda := rest } with
      | false =>
        rw [exec_env_of_not_rearms hx hstart, if_neg hirq]
        exact .inl hclosed
      | true =>
        have hi : i = .get ∨ i = .ret .more :=
          (or_assoc.mpr ((rearms_iff i _).mp hstart)).resolve_right fun ⟨hi, _⟩ => hirq hi
        have htrace := exec_trace_of_start hx hi
        exact .inr ⟨w, i, rest, hnext, hd, hi, htrace⟩
    · exact absurd (hctlEn.symm.trans hclosed) (by decide)
    · exact ⟨rfl, .inl hclosed⟩
    · exact ⟨rfl, .inl hclosed⟩
    · exact ⟨rfl, .inl hclosed⟩

/-- Settles O51: the byte is produced, the event becomes pending, and the pending event fires; each move
stays enabled until fairness makes it. -/
theorem aFairEnvironmentInterruptsTheArmedBlock : Obligations.AFairEnvironmentInterruptsTheArmedBlock := by
  intro moves run hrun hfair hmoves hq hstart hinten hctlEn
  by_contra hnever
  have hquiet : Undisturbed moves := fun k m hm =>
    (hmoves k m hm).resolve_right fun hfire => hnever ⟨k, hfire ▸ hm⟩
  have hopen : ∀ k, IdleAndOpen (run k) := fun k =>
    holds_from_of_undisturbed hrun hquiet idleAndOpen_of_no_operation ⟨hq, hinten, hctlEn⟩ (Nat.zero_le k)
  have hgate : ∀ k, (run k).env.inten = true := fun k => have ⟨_, hk, _⟩ := hopen k; hk
  obtain ⟨n, hevt⟩ := fair_event hrun hfair hquiet hstart
  obtain ⟨k, hpend⟩ := fair_pending hrun hfair hquiet hgate hevt
  exact hnever (fair_fire hrun hfair hquiet hopen hpend)

/-- Settles O53: the one read of the block returns the settled value or a free byte. -/
theorem closedReadsReturnOneByte : Obligations.ClosedReadsReturnOneByte := by
  intro s t ⟨_, hvalue⟩ h new htrace r v hread
  rcases step_next_operation h with ⟨i, rest, hx⟩ | ⟨_, hsame⟩
  · obtain ⟨new', htrace', hout⟩ := exec_outputs hx
    obtain rfl : new = new' := List.append_cancel_left (htrace.symm.trans htrace')
    obtain ⟨hr, rfl⟩ := outputs_read (hout _ hread)
    exact ⟨hr, eq_setWidth_of_oneByte (oneByte_nextValue hvalue)⟩
  · obtain rfl : new = [] := List.self_eq_append_right.mp (hsame.symm.trans htrace)
    cases hread

/-- Settles O11, each move where its condition holds and where it does not. -/
theorem environmentMovesAreThoseOfTheClosedAccount : Obligations.EnvironmentMovesAreThoseOfTheClosedAccount := by
  intro s
  refine ⟨takeMove_sample_of_running, fun hrun => takeMove_of_disabled (m := .sample) hrun,
    takeMove_pend_of_open, fun hshut => takeMove_of_disabled ?_, takeMove_fire_of_pending,
    fun hshut => takeMove_of_disabled ?_⟩
  · rw [← Bool.not_eq_true, moveEnabled_pend_iff]
    rcases hshut with h | h <;> simp [h]
  · rw [← Bool.not_eq_true, moveEnabled_fire_iff]
    rcases hshut with h | h | h <;> simp [h]

end Sys2Proof.Proofs
end

section
/-! The end of a run: when a state is quiescent or finished, in terms of the moves that can still be made,
and what a step from a finished state can be (70_reset_and_hazards.md R177). -/

namespace Sys2Proof.Safety

open Sys2Proof.Machine

theorem presentsOperation_present_iff (w : EventWord) :
    presentsOperation (.present w) = true ↔ ∃ i, decode w = .ok i := by
  cases hd : decode w <;> simp [presentsOperation, hd, Except.toOption]

/-- Only a presented word can present an operation. -/
theorem presentsOperation_eq_false_iff (m : Move) :
    presentsOperation m = false ↔ ∀ w i, m = .present w → decode w ≠ .ok i := by
  cases m with
  | present w =>
    rw [← Bool.not_eq_true, presentsOperation_present_iff, not_exists]
    exact ⟨fun h _ i hw => Move.present.inj hw ▸ h i, fun h i => h w i rfl⟩
  | supply v => simp [presentsOperation]
  | sample => simp [presentsOperation]
  | pend => simp [presentsOperation]
  | fire => simp [presentsOperation]

theorem quiescent_iff (s : State) :
    quiescent s = true ↔ s.seq = .idle ∧ ∀ w i, .present w ∈ s.agenda → decode w ≠ .ok i := by
  simp only [quiescent, Bool.and_eq_true, beq_iff_eq, List.all_eq_true, Bool.not_eq_true',
    presentsOperation_eq_false_iff]
  exact and_congr_right fun _ =>
    ⟨fun h w i hw => h _ hw w i rfl, fun h m hm w i hi => h w i (hi ▸ hm)⟩

theorem envQuiet_iff (e : EnvState) :
    envQuiet e = true ↔ e.run = false ∧ ¬ (e.evt = true ∧ e.inten = true) ∧
      ¬ (e.ctlPend = true ∧ e.ctlEn = true) := by
  simp [envQuiet, and_assoc, imp_iff_not_or]

theorem finished_iff (s : State) : finished s = true ↔ quiescent s = true ∧ envQuiet s.env = true := by
  simp [finished]

/-- In IDLE the three conditions are those of the three environment moves (60_exceptions.md R144). -/
theorem envQuiet_iff_moves_disabled {s : State} (hq : s.seq = .idle) :
    envQuiet s.env = true ↔ ∀ m ∈ envMoves, moveEnabled m s = false := by
  simp only [envMoves, List.forall_mem_cons, ← Bool.not_eq_true, moveEnabled_pend_iff, moveEnabled_fire_iff]
  simp [envQuiet_iff, moveEnabled, hq]

/-- An environment move whose condition holds is performed. -/
theorem takeMove_next_of_envMove_enabled {m : Move} {s : State} (hm : m ∈ envMoves)
    (h : moveEnabled m s = true) : ∃ t, takeMove m s = .next t := by
  cases m with
  | sample => exact ⟨_, takeMove_sample_of_running h⟩
  | pend =>
    obtain ⟨hevt, hinten⟩ := (moveEnabled_pend_iff s).mp h
    exact ⟨_, takeMove_pend_of_open hevt hinten⟩
  | fire =>
    obtain ⟨hpend, hctlEn, hq⟩ := (moveEnabled_fire_iff s).mp h
    exact ⟨_, (takeMove_fire_of_pending hpend hctlEn hq).trans (exec_irq_of_idle hq)⟩
  | present w => simp [envMoves] at hm
  | supply v => simp [envMoves] at hm

theorem takeMove_envMove_refused_iff {m : Move} {s : State} (hm : m ∈ envMoves) :
    takeMove m s = .refused (.moveDisabled m) ↔ moveEnabled m s = false := by
  refine ⟨fun hrefused => ?_, takeMove_of_disabled⟩
  by_contra henabled
  obtain ⟨t, ht⟩ := takeMove_next_of_envMove_enabled hm (eq_true_of_ne_false henabled)
  cases hrefused.symm.trans ht

theorem finished_iff_moves_refused (s : State) :
    finished s = true ↔
      quiescent s = true ∧ ∀ m ∈ envMoves, takeMove m s = .refused (.moveDisabled m) := by
  rw [finished_iff]
  refine and_congr_right fun hquiet => ?_
  obtain ⟨hq, -⟩ := (quiescent_iff s).mp hquiet
  exact (envQuiet_iff_moves_disabled hq).trans
    (forall₂_congr fun _ hm => (takeMove_envMove_refused_iff hm).symm)

theorem not_quiescent_of_deliver {s : State} (h : s.seq = .deliver) : quiescent s = false := by
  simp [quiescent, h]

theorem quiescent_uncons {s : State} {m : Move} {rest : List Move} (hs : quiescent s = true)
    (hnext : s.agenda = m :: rest) : presentsOperation m = false ∧ quiescent { s with agenda := rest } = true := by
  simp only [quiescent, hnext, List.all_cons, Bool.and_eq_true, Bool.not_eq_true'] at hs ⊢
  obtain ⟨hq, hm, hrest⟩ := hs
  exact ⟨hm, hq, hrest⟩

/-- From a finished state a step waits or settles a value: no operation is presented and no environment move
is enabled. -/
theorem step_next_of_finished {s t : State} (hs : finished s = true) (h : step s = .next t) :
    t = s ∨ ∃ v rest, s.agenda = .supply v :: rest ∧ t = supplyValue v { s with agenda := rest } := by
  obtain ⟨hquiet, henv⟩ := (finished_iff s).mp hs
  obtain ⟨hrun, hevent, hpending⟩ := (envQuiet_iff s.env).mp henv
  rcases step_next_cases h with ⟨_, ht⟩ | ⟨m, rest, hnext, hm⟩
  · exact .inl ht
  · obtain ⟨hnone, -⟩ := quiescent_uncons hquiet hnext
    rcases takeMove_next_cases hm with ⟨w, i, rfl, hd, _⟩ | ⟨_, hctlPend, hctlEn, _⟩ | ⟨v, rfl, ht⟩ |
      ⟨_, hrunning, _⟩ | ⟨_, hevt, hinten, _⟩
    · exact absurd hd ((presentsOperation_eq_false_iff _).mp hnone w i rfl)
    · exact absurd ⟨hctlPend, hctlEn⟩ hpending
    · exact .inr ⟨v, rest, hnext, ht⟩
    · exact absurd (hrunning.symm.trans hrun) (by decide)
    · exact absurd ⟨hevt, hinten⟩ hevent

/-- Settling the next value on the agenda leaves a finished state finished. -/
theorem finished_supplyValue {s : State} {v : Word} {rest : List Move} (hs : finished s = true)
    (hnext : s.agenda = .supply v :: rest) : finished (supplyValue v { s with agenda := rest }) = true := by
  obtain ⟨hquiet, henv⟩ := (finished_iff s).mp hs
  obtain ⟨-, hrest⟩ := quiescent_uncons hquiet hnext
  exact (finished_iff _).mpr ⟨hrest, henv⟩

end Sys2Proof.Safety
end

section
/-! Runs of several IRQs with no value settled between them, and the words and trace parts of the hazard
sequences (70_reset_and_hazards.md R165, R166). -/

namespace Sys2Proof.Machine

open Sys2Proof.Safety

/-- The event word of RET More (30_encoding.md R66). -/
theorem decode_retMoreWord : decode 0x5001#16 = .ok (.ret .more) := rfl

theorem countP_isCallback_maskTrace : maskTrace.countP isCallback = 0 := rfl

theorem countP_isCallback_armTrace : armTrace.countP isCallback = 0 := rfl

theorem blockOf_eq_mk_iff {s : State} {i : Index} {a : Word} {c : Option ClientId} {q : Seq} :
    blockOf s = (i, a, c, q) ↔ s.idx = i ∧ s.acc = a ∧ s.client = c ∧ s.seq = q := by
  simp [blockOf]

/-- One IRQ where the word wants a byte (40_interrupt_handler.md R82). -/
theorem run_irq_of_collecting (k : Nat) {s : State} {rest : List Move} (hq : s.seq = .idle)
    (hlow : s.idx.toNat ≤ 3) (hnext : s.agenda = .present 0x1000#16 :: rest) :
    ∃ t, Host.Core.run Sys2Proof.core (k + 1) s = Host.Core.run Sys2Proof.core k t ∧ t.seq = .idle ∧
      t.idx = s.idx + 1#3 ∧ t.client = s.client ∧ t.agenda = rest ∧
      t.trace = s.trace ++ maskTrace ++ [.rd .value (nextValue s)] ++ armTrace :=
  ⟨_, run_present k hnext decode_irqWord (exec_irq_of_collecting hq (BitVec.le_def.mpr hlow)),
    by simp [hq, nextValue]⟩

/-- One IRQ where the word is whole and a client is registered (R84). -/
theorem run_irq_of_registered (k : Nat) {s : State} {c : ClientId} {rest : List Move} (hq : s.seq = .idle)
    (hready : s.idx = 4#3) (hc : s.client = some c) (hnext : s.agenda = .present 0x1000#16 :: rest) :
    ∃ t, Host.Core.run Sys2Proof.core (k + 1) s = Host.Core.run Sys2Proof.core k t ∧
      blockOf t = (4#3, s.acc, some c, .deliver) ∧ t.agenda = rest ∧
      t.trace = s.trace ++ maskTrace ++ [.rd .value (nextValue s), .cb c] :=
  ⟨_, run_present k hnext decode_irqWord (exec_irq_of_registered hq hready hc),
    by simp [blockOf, hready, hc, nextValue]⟩

/-- One IRQ where the word is whole and nobody is registered: with `P_NOCLIENT_RESET` false the word stays
(R85). -/
theorem run_irq_of_noClient (k : Nat) {s : State} {rest : List Move} (hq : s.seq = .idle)
    (hready : s.idx = 4#3) (hnone : s.client = none) (hkeep : s.noClientReset = false)
    (hnext : s.agenda = .present 0x1000#16 :: rest) :
    ∃ t, Host.Core.run Sys2Proof.core (k + 1) s = Host.Core.run Sys2Proof.core k t ∧
      blockOf t = blockOf s ∧ t.agenda = rest ∧
      t.trace = s.trace ++ maskTrace ++ [.rd .value (nextValue s)] := by
  refine ⟨_, run_present k hnext decode_irqWord (exec_irq_of_ready hq hready), ?_⟩
  rw [irqReady_none (by simpa using hnone)]
  simp [hkeep, blockOf, nextValue]

/-- A client registered and generation started: the word stays (42_control_surface.md R110, R111). -/
theorem run_setclient_get (k : Nat) {s : State} {c : ClientId} {rest : List Move} (hq : s.seq = .idle)
    (hnext : s.agenda = .present (encode (.setclient c)) :: .present 0x2000#16 :: rest) :
    ∃ t, Host.Core.run Sys2Proof.core (k + 2) s = Host.Core.run Sys2Proof.core k t ∧
      blockOf t = (s.idx, s.acc, some c, .idle) ∧ t.agenda = rest ∧ t.trace = s.trace ++ armTrace := by
  have hset := run_present (k + 1) hnext (decode_encode (.setclient c)) (exec_setclient_of_idle c hq)
  have hget := run_present k (s := registerClient c { s with agenda := .present 0x2000#16 :: rest }) rfl
    decode_getWord (exec_get_of_idle hq)
  exact ⟨_, hset.trans hget, by simp [blockOf, hq]⟩

/-- IRQs that fill the word count up, read one value each and call nobody (R82). -/
theorem run_irqs_of_collecting (n : Nat) {s : State} {rest : List Move} (hq : s.seq = .idle)
    (hroom : s.idx.toNat + n ≤ 4) (hnext : s.agenda = List.replicate n (.present 0x1000#16) ++ rest) :
    ∃ t, Host.Core.run Sys2Proof.core n s = .next t ∧ t.seq = .idle ∧ t.idx.toNat = s.idx.toNat + n ∧
      t.client = s.client ∧ t.agenda = rest ∧ t.trace.countP isCallback = s.trace.countP isCallback ∧
      t.trace.countP isValueRead = s.trace.countP isValueRead + n := by
  induction n generalizing s with
  | zero => exact ⟨s, run_zero s, hq, rfl, rfl, hnext, rfl, rfl⟩
  | succ n ih =>
    have hlow : s.idx.toNat ≤ 3 := by omega
    obtain ⟨u, hfirst, hqu, hidxu, hclientu, hnextu, htrace⟩ := run_irq_of_collecting n hq hlow hnext
    have hcount : u.idx.toNat = s.idx.toNat + 1 := by rw [hidxu, index_add_one_toNat hlow]
    obtain ⟨t, hothers, hqt, hidxt, hclientt, hnextt, hcalls, hreads⟩ := ih hqu (by omega) hnextu
    have hcallsu : u.trace.countP isCallback = s.trace.countP isCallback := by
      simp [htrace, countP_isCallback_maskTrace, countP_isCallback_armTrace, isCallback]
    have hreadsu : u.trace.countP isValueRead = s.trace.countP isValueRead + 1 := by
      simp [htrace, countP_isValueRead_maskTrace, countP_isValueRead_armTrace, List.countP_cons, isValueRead]
    exact ⟨t, hfirst.trans hothers, hqt, by omega, hclientt.trans hclientu, hnextt, hcalls.trans hcallsu,
      by omega⟩

end Sys2Proof.Machine
end

section
/-! The statements about reset and hazards (70_reset_and_hazards.md). -/

namespace Sys2Proof.Proofs

open Sys2Proof.Machine Sys2Proof.Safety

/-- Settles O41: four IRQs fill the word, and the fifth finds it whole. -/
theorem theFifthInvocationDelivers : Obligations.TheFifthInvocationDelivers := by
  intro s c hidx hq hc hnext
  obtain ⟨t, hfour, hqt, hidxt, hclient, hnextt, hcalls, hreads⟩ :=
    run_irqs_of_collecting 4 (rest := [.present 0x1000#16]) hq (by simp [hidx]) hnext
  have hready : t.idx = 4#3 := BitVec.eq_of_toNat_eq (by simpa [hidx] using hidxt)
  obtain ⟨t', hfifth, hblock, -, htrace⟩ := run_irq_of_registered 0 hqt hready (hclient.trans hc) hnextt
  obtain ⟨hidx', hacc', -, hq'⟩ := blockOf_eq_mk_iff.mp hblock
  refine ⟨t, t', hfour, (run_append 4 1 hfour).trans hfifth, hqt, hready, hcalls, hq', hidx', hacc', ?_, ?_⟩
  · simp [htrace]
  · simp [htrace, hreads, countP_isValueRead_maskTrace, List.countP_cons, isValueRead]

/-- Settles O44: the first IRQ leaves the word, and so do SETCLIENT and GET; the second IRQ finds it whole and
a client registered. -/
theorem aStaleWordReachesTheLateConsumer : Obligations.AStaleWordReachesTheLateConsumer := by
  intro s c hready hnone hq hkeep hnext
  obtain ⟨u, hlost, hblocku, hnextu, htraceu⟩ := run_irq_of_noClient 4 hq hready hnone hkeep hnext
  obtain ⟨hidxu, haccu, -, hqu⟩ := blockOf_eq_iff.mp hblocku
  obtain ⟨v, hset, hblockv, hnextv, htracev⟩ := run_setclient_get 2 (hqu.trans hq) hnextu
  obtain ⟨hidxv, haccv, hclientv, hqv⟩ := blockOf_eq_mk_iff.mp hblockv
  obtain ⟨w, hcall, hblockw, hnextw, htracew⟩ :=
    run_irq_of_registered 1 hqv (hidxv.trans (hidxu.trans hready)) hclientv hnextv
  obtain ⟨hidxw, haccw, hclientw, hqw⟩ := blockOf_eq_mk_iff.mp hblockw
  have hdraw := run_present 0 hnextw decode_drawWord (exec_draw_of_ready hqw hidxw)
  refine ⟨_, maskTrace ++ [.rd .value (nextValue s)] ++ armTrace ++ maskTrace ++ [.rd .value (nextValue v)],
    hlost.trans (hset.trans (hcall.trans hdraw)), ?_, ?_, hclientw, rfl, hqw⟩
  · simp [htracew, htracev, htraceu, haccw, haccv, haccu]
  · simp [countP_isCallback_maskTrace, countP_isCallback_armTrace, isCallback]

/-- Settles O45: RET More arms and leaves the word, and the IRQ finds it whole again. -/
theorem moreWithoutADrawCallsBackAgain : Obligations.MoreWithoutADrawCallsBackAgain := by
  intro s c hready hc hq hnext
  have hret := run_present 1 hnext decode_retMoreWord (exec_ret_of_deliver .more hq)
  obtain ⟨t, hirq, hblock, -, htrace⟩ := run_irq_of_registered 0 (c := c)
    (s := leaveCallback (startRng { s with agenda := [.present 0x1000#16] })) rfl hready hc rfl
  refine ⟨t, hret.trans hirq, hblock.trans ?_, ?_⟩
  · simp [blockOf, hready, hc, hq]
  · simpa [nextValue] using htrace

/-- Settles O55: only values still to be settled are left. -/
theorem aFinishedRunStaysFinished : Obligations.AFinishedRunStaysFinished := by
  intro s t hs h
  rcases step_next_of_finished hs h with rfl | ⟨v, rest, hnext, rfl⟩
  · exact ⟨hs, rfl, rfl, rfl⟩
  · exact ⟨finished_supplyValue hs hnext, rfl, rfl, rfl⟩

/-- Settles O50: each environment move is refused exactly where its condition fails. -/
theorem finishedMeansNoEnvironmentMove : Obligations.FinishedMeansNoEnvironmentMove := by
  intro s
  refine ⟨quiescent_iff s, ?_, finished_iff_moves_refused s, fun hq => ?_⟩
  · rw [finished_iff, envQuiet_iff]
  · have hnot := not_quiescent_of_deliver hq
    exact ⟨by simp [finished, hnot], hnot⟩

end Sys2Proof.Proofs
end

section
/-! The presentation of one event word from outside (30_encoding.md R60): which word comes next, and how the
opcode table's decoder reads it. -/

namespace Sys2Proof.Machine

/-- An event word's sixteen bits, given as a number, are that event word. -/
theorem withFetchWord_toNat (s : State) (w : EventWord) : s.withFetchWord 16 w.toNat = presentNext w s := by
  rw [State.withFetchWord, Nat.mod_eq_of_lt w.isLt, BitVec.ofNat_toNat, BitVec.setWidth_eq]

/-- The opcode table's reading of sixteen bits is the decoder's. -/
theorem decodeTableWord_toNat (w : EventWord) : decodeTableWord 16 w.toNat = (decode w).toOption := by
  rw [decodeTableWord, if_pos ⟨Nat.le_refl 16, w.isLt⟩, BitVec.ofNat_toNat, BitVec.setWidth_eq]

/-- A presented word that decodes is performed in the state in which it was presented. -/
theorem step_presentNext {w : EventWord} {i : Instr} (s : State) (hw : decode w = .ok i) :
    step (presentNext w s) = exec i s := by
  have hnext : (presentNext w s).agenda = .present w :: s.agenda := rfl
  rw [step_of_cons hnext, takeMove_present, present_ok _ hw]
  rfl

end Sys2Proof.Machine
end

section
/-! The statements about a presented word, an empty agenda and the state after reset. -/

namespace Sys2Proof.Proofs

open Sys2Proof.Machine

/-- Settles O9: the number is the word again, for the agenda and for the opcode table's decoder. -/
theorem withFetchWordPresentsTheWord : Obligations.WithFetchWordPresentsTheWord := by
  intro s w i hw
  constructor
  · rw [withFetchWord_toNat, step_presentNext s hw]
  · rw [decodeTableWord_toNat, hw, Except.toOption]

/-- Settles O10: the empty agenda is the step's first branch. -/
theorem nothingPresentedNothingChanges : Obligations.NothingPresentedNothingChanges :=
  fun _ hnone => step_of_nil hnone

/-- Settles O31, field by field of the reset state. -/
theorem resetLeavesTheBlockEmpty : Obligations.ResetLeavesTheBlockEmpty :=
  ⟨rfl, rfl, rfl, rfl, rfl, rfl, rfl⟩

end Sys2Proof.Proofs
end
